-- ==== Sys2Proof/Word.lean ====
section
/-! DEFINITION. The word types of AESC: bytes, 32-bit bus words, byte sequences (R10) and the 4x4 byte matrix
the cipher calls the State (R97). -/

namespace Sys2Proof

/-- A byte, an unsigned 8-bit value (R10). -/
abbrev Byte := BitVec 8

/-- A 32-bit bus value (R9). -/
abbrev Word := BitVec 32

/-- A sequence of bytes, index 0 first (R10's `Bytes(n)`). -/
abbrev Bytes := List Byte

/-- One column of the cipher's State: the bytes of rows 0 to 3 (R97). -/
structure Column where
  r0 : Byte
  r1 : Byte
  r2 : Byte
  r3 : Byte
  deriving DecidableEq, Repr

/-- The cipher's State: a 4x4 byte matrix, kept column by column (R97, 90_conflicts.md C1). -/
structure AesState where
  c0 : Column
  c1 : Column
  c2 : Column
  c3 : Column
  deriving DecidableEq, Repr

end Sys2Proof
end

