-- ==== Sys2Proof/Syntax.lean ====
section
/-! DEFINITION. The commands of AESC (one constructor per row of spec/opcode_table.json), and the events of the one
total order of R57: the host accesses of R67, the engine's turn, an RNG delivery and a reset. -/

namespace Sys2Proof

/-- The commands (R64). No command carries an operand (R63); a reserved row of the table that covers several opcodes
keeps the opcode, which LASTOP shows (R75). -/
inductive Instr where
  /-- OP 0x0 (R74). -/
  | nop
  /-- OP 0x1 (R96). -/
  | keyexp
  /-- OP 0x2 (R110). -/
  | encBlock
  /-- OP 0x3 (R111). -/
  | decBlock
  /-- OP 0x4 (R116). -/
  | cbcEnc
  /-- OP 0x5 (R117). -/
  | cbcDec
  /-- OP 0x6 (R126). -/
  | gcmInit
  /-- OP 0x7 (R127). -/
  | gcmEnc
  /-- OP 0x8 (R128). -/
  | gcmDec
  /-- OP 0x9 (R75). -/
  | reserved9
  /-- OP 0xA or 0xB (R75; the table's row with mask 0xE). -/
  | reservedAB (op : BitVec 4)
  /-- OP 0xC to 0xF (R75; the table's row with mask 0xC). -/
  | reservedCF (op : BitVec 4)
  deriving DecidableEq, Repr

/-- The size of a host access: 1, 2 or 4 bytes (R9, R46). -/
inductive Size where
  | byte
  | half
  | word
  deriving DecidableEq, Repr

/-- The events of the total order of R57. Offsets are relative to AESC_BASE; an access at the bus target
port carries the host's own bus address (R44, log 8). -/
inductive Event where
  /-- `RD8`, `RD16`, `RD32` (R67): MemRead(a, n). -/
  | read (n : Size) (a : BitVec 16)
  /-- `W8`, `W16`, `W32` (R67): MemWrite(a, n, v); the low n bytes of `v` are written. -/
  | write (n : Size) (a : BitVec 16) (v : Word)
  /-- `POLL` (R67): repeat `RD32 a` until (result AND mask) = val. -/
  | poll (a : BitVec 16) (mask val : Word)
  /-- A read of `n` bytes at the bus address `addr` (R44, R142). -/
  | busRead (n : Size) (addr : Nat)
  /-- A write of the low `n` bytes of `v` at the bus address `addr` (R44, R142). -/
  | busWrite (n : Size) (addr : Nat) (v : Word)
  /-- The engine takes its turn (R70). -/
  | engine
  /-- The RNG puts a 16-byte draw on its port (R14). -/
  | rng (draw : Vector Byte 16)
  /-- The platform asserts reset (R146). -/
  | reset
  deriving DecidableEq, Repr

end Sys2Proof
end

