-- ==== Sys2Proof/WellFormed.lean ====
section
/-! DEFINITION. Well-formed commands: a reserved row's opcode lies in the range the row's mask and match give (R64). -/

namespace Sys2Proof

/-- The check on a command's fields: 0xA..0xB for the row with mask 0xE, 0xC..0xF for the row with mask 0xC (R64). -/
def Instr.wellFormed : Instr → Bool
  | .nop => true
  | .keyexp => true
  | .encBlock => true
  | .decBlock => true
  | .cbcEnc => true
  | .cbcDec => true
  | .gcmInit => true
  | .gcmEnc => true
  | .gcmDec => true
  | .reserved9 => true
  | .reservedAB op => op &&& 0xE == 0xA
  | .reservedCF op => op &&& 0xC == 0xC

end Sys2Proof
end

