-- ==== Sys2Proof/Decode.lean ====
section
/-! DEFINITION. The command word (R62 to R66): its decoder, total on any bytes, and its encoder. -/

namespace Sys2Proof

/-- The command of an opcode (R64). Every one of the sixteen values decodes (R65). -/
def decodeOp (op : BitVec 4) : Instr :=
  match op.toNat with
  | 0x0 => .nop
  | 0x1 => .keyexp
  | 0x2 => .encBlock
  | 0x3 => .decBlock
  | 0x4 => .cbcEnc
  | 0x5 => .cbcDec
  | 0x6 => .gcmInit
  | 0x7 => .gcmEnc
  | 0x8 => .gcmDec
  | 0x9 => .reserved9
  | 0xA => .reservedAB op
  | 0xB => .reservedAB op
  | _ => .reservedCF op

/-- OP = word[3:0] (R62). -/
def opField (w : Word) : BitVec 4 := w.extractLsb' 0 4

/-- The decoder of a command word: it reads OP and nothing else (R62). -/
def decode (w : Word) : Instr := decodeOp (opField w)

/-- Why bytes are no command word. -/
inductive DecodeRefusal where
  /-- The bytes are not the four of one command word: there is no other length (R62, R66). Safe. -/
  | notOneWord
  deriving DecidableEq, Repr

/-- The decoder on bytes: one 32-bit word, its byte 0 in bits 7:0 as on the bus (R53). -/
def decodeBytes : Bytes → Except DecodeRefusal Instr
  | [b0, b1, b2, b3] => .ok (decode (b3 ++ b2 ++ b1 ++ b0))
  | _ => .error .notOneWord

/-- The opcode of a command (R64). -/
def opcode : Instr → BitVec 4
  | .nop => 0x0
  | .keyexp => 0x1
  | .encBlock => 0x2
  | .decBlock => 0x3
  | .cbcEnc => 0x4
  | .cbcDec => 0x5
  | .gcmInit => 0x6
  | .gcmEnc => 0x7
  | .gcmDec => 0x8
  | .reserved9 => 0x9
  | .reservedAB op => op
  | .reservedCF op => op

/-- The encoder: OP in bits 3:0 and 0 in the ignored bits (R62: "write 0"). -/
def encode (i : Instr) : Word := (opcode i).setWidth 32

/-- The four bytes of a table word, lowest first. -/
def tableBytes (w : Nat) : Bytes := (List.range 4).map fun k => BitVec.ofNat 8 (w >>> (8 * k))

/-- The command the decoder reads from a table word of `nbits` bits; the bits above `nbits` are 0. -/
def decodeTableWord (nbits w : Nat) : Option Instr :=
  match decodeBytes (tableBytes (w % 2 ^ nbits)) with
  | .ok i => some i
  | .error _ => none

end Sys2Proof
end

