-- ==== Sys2Proof/Machine/Sequences.lean ====
section
/-! DEFINITION. Byte sequences (R10) and their byte orders: big-endian integers (R11), little-endian bus lanes (R53),
and the split of a sequence into 16-byte blocks. -/

namespace Sys2Proof.Machine

/-- `a[i..j)` (R10). -/
def slice (a : Bytes) (i j : Nat) : Bytes := (a.drop i).take (j - i)

/-- `a XOR b`, bytewise (R10). -/
def xorBytes (a b : Bytes) : Bytes := List.zipWith (· ^^^ ·) a b

/-- `0^n`, n zero bytes (R10). -/
def zeros (n : Nat) : Bytes := List.replicate n 0x00

/-- `BE(a)`: the unsigned integer of `a` read big-endian (R11). -/
def be (a : Bytes) : Nat := a.foldl (fun acc b => acc * 256 + b.toNat) 0

/-- `BEbytes_n(v)`: the n-byte big-endian encoding of v mod 2^(8n) (R11). -/
def beBytes : Nat → Nat → Bytes
  | 0, _ => []
  | n + 1, v => BitVec.ofNat 8 (v / 256 ^ n) :: beBytes n v

/-- The bus value of bytes, the first in bits 7:0 (R49, R53). -/
def leWord : Bytes → Word
  | [] => 0
  | b :: bs => (leWord bs <<< 8) ||| b.setWidth 32

/-- The `n` lowest byte lanes of a bus value, bits 7:0 first (R50, R53). -/
def leBytes : Nat → Word → Bytes
  | 0, _ => []
  | n + 1, v => v.setWidth 8 :: leBytes n (v >>> 8)

/-- The first `k` 16-byte blocks of `x`; the last may be shorter. -/
def blocksN : Nat → Bytes → List Bytes
  | 0, _ => []
  | k + 1, x => x.take 16 :: blocksN k (x.drop 16)

/-- `x` in ceil(len/16) blocks of 16 bytes, the last maybe shorter (R122). -/
def blocks (x : Bytes) : List Bytes := blocksN ((x.length + 15) / 16) x

/-- The fewest zero bytes that bring `n` bytes to a multiple of 16 (R123, R124). -/
def padLen (n : Nat) : Nat := (16 - n % 16) % 16

end Sys2Proof.Machine
end

