-- ==== Sys2Proof/Machine/Galois.lean ====
section
/-! DEFINITION. GaloisField arithmetic, the S-boxes and the round constants (41_galois.md). -/

namespace Sys2Proof.Machine

/-- `xtime(a)`: multiplication of a byte by x (R81). -/
def xtime (a : Byte) : Byte := (a <<< 1) ^^^ (if a.getLsbD 7 then 0x1B else 0x00)

/-- The loop of R82 with `n` rounds left. -/
def gfMul8Loop : Nat → Byte → Byte → Byte → Byte
  | 0, p, _, _ => p
  | n + 1, p, a, b => gfMul8Loop n (if b.getLsbD 0 then p ^^^ a else p) (xtime a) (b >>> 1)

/-- `GFMul8(a, b)`: the product in GF(2^8), bit-serially (R82). -/
def gfMul8 (a b : Byte) : Byte := gfMul8Loop 8 0x00 a b

/-- The entry of a table of sixteen rows at row a[7:4] and column a[3:0] (R85). -/
def tableEntry (rows : List (BitVec 128)) (a : Byte) : Byte :=
  ((rows.getD (a.toNat / 16) 0) >>> (8 * (15 - a.toNat % 16))).setWidth 8

/-- The S-box table of R85, one row a line, column 0 leftmost. -/
def sboxRows : List (BitVec 128) :=
  [0x637c777bf26b6fc53001672bfed7ab76,
   0xca82c97dfa5947f0add4a2af9ca472c0,
   0xb7fd9326363ff7cc34a5e5f171d83115,
   0x04c723c31896059a071280e2eb27b275,
   0x09832c1a1b6e5aa0523bd6b329e32f84,
   0x53d100ed20fcb15b6acbbe394a4c58cf,
   0xd0efaafb434d338545f9027f503c9fa8,
   0x51a3408f929d38f5bcb6da2110fff3d2,
   0xcd0c13ec5f974417c4a77e3d645d1973,
   0x60814fdc222a908846eeb814de5e0bdb,
   0xe0323a0a4906245cc2d3ac629195e479,
   0xe7c8376d8dd54ea96c56f4ea657aae08,
   0xba78252e1ca6b4c6e8dd741f4bbd8b8a,
   0x703eb5664803f60e613557b986c11d9e,
   0xe1f8981169d98e949b1e87e9ce5528df,
   0x8ca1890dbfe6426841992d0fb054bb16]

/-- The inverse S-box table of R86, one row a line, column 0 leftmost. -/
def invSboxRows : List (BitVec 128) :=
  [0x52096ad53036a538bf40a39e81f3d7fb,
   0x7ce339829b2fff87348e4344c4dee9cb,
   0x547b9432a6c2233dee4c950b42fac34e,
   0x082ea16628d924b2765ba2496d8bd125,
   0x72f8f66486689816d4a45ccc5d65b692,
   0x6c704850fdedb9da5e154657a78d9d84,
   0x90d8ab008cbcd30af7e45805b8b34506,
   0xd02c1e8fca3f0f02c1afbd0301138a6b,
   0x3a9111414f67dcea97f2cfcef0b4e673,
   0x96ac7422e7ad3585e2f937e81c75df6e,
   0x47f11a711d29c5896fb7620eaa18be1b,
   0xfc563e4bc6d279209adbc0fe78cd5af4,
   0x1fdda8338807c731b11210592780ec5f,
   0x60517fa919b54a0d2de57a9f93c99cef,
   0xa0e03b4dae2af5b0c8ebbb3c83539961,
   0x172b047eba77d626e169146355210c7d]

/-- `S(a)` (R85). -/
def sbox (a : Byte) : Byte := tableEntry sboxRows a

/-- `InvS(a)` (R86). -/
def invSbox (a : Byte) : Byte := tableEntry invSboxRows a

/-- `Rcon[i]`, the byte x^(i-1), for i from 1 on (R87). Index 0 is never read. -/
def rcon : Nat → Byte
  | 0 => 0x00
  | 1 => 0x01
  | i + 2 => xtime (rcon (i + 1))

/-- The reduction constant of GF(2^128): 0xE1 followed by 120 zero bits (R88). -/
def gf128R : BitVec 128 := 0xE1 <<< 120

/-- The loop of R88 over the bits of x below bit `i`, most significant first. -/
def gfMul128Loop (x : BitVec 128) : Nat → BitVec 128 → BitVec 128 → BitVec 128
  | 0, z, _ => z
  | i + 1, z, v =>
    gfMul128Loop x i (if x.getLsbD i then z ^^^ v else z)
      (if v.getLsbD 0 then (v >>> 1) ^^^ gf128R else v >>> 1)

/-- `GFMul128(X, Y)` on 16-byte values (R88). -/
def gfMul128 (X Y : Bytes) : Bytes :=
  beBytes 16 (gfMul128Loop (BitVec.ofNat 128 (be X)) 128 0 (BitVec.ofNat 128 (be Y))).toNat

end Sys2Proof.Machine
end

