-- ==== Sys2Proof/Machine/KeySchedule.lean ====
section
/-! DEFINITION. The key schedule's functions (R90 to R95). -/

namespace Sys2Proof.Machine

/-- `KeyBytes(KEYLEN)`, undefined for 0b11 (R90). -/
def keyBytes (keyLen : BitVec 2) : Option Nat :=
  if keyLen = 0b00 then some 16
  else if keyLen = 0b01 then some 24
  else if keyLen = 0b10 then some 32
  else none

/-- `Rounds(Nk)` for Nk = 16, 24, 32 (R90). -/
def rounds (nk : Nat) : Nat := if nk = 16 then 10 else if nk = 24 then 12 else 14

/-- `SchedLen(Nk)` (R90). -/
def schedLen (nk : Nat) : Nat := 16 * (rounds nk + 1)

/-- `RotWord` (R91). -/
def rotWord (t : Bytes) : Bytes := t.drop 1 ++ t.take 1

/-- `SubWord` (R91). -/
def subWord (t : Bytes) : Bytes := t.map sbox

/-- `t[0] <- t[0] XOR c` (R92). -/
def xorFirst (t : Bytes) (c : Byte) : Bytes :=
  match t with
  | [] => []
  | b :: bs => (b ^^^ c) :: bs

/-- The word t of R92 after its branch: the previous four bytes, substituted as the position says. -/
def expandWord (nk pos rc : Nat) (w : Bytes) : Bytes :=
  let t := slice w (pos - 4) pos
  if pos % nk = 0 then xorFirst (subWord (rotWord t)) (rcon rc)
  else if nk = 32 ∧ pos % nk = 16 then subWord t
  else t

/-- The loop of R92 with `n` four-byte groups left; `pos` bytes of the schedule stand in `w`. -/
def expandLoop (nk : Nat) : Nat → Nat → Nat → Bytes → Bytes
  | 0, _, _, w => w
  | n + 1, pos, rc, w =>
    expandLoop nk n (pos + 4) (if pos % nk = 0 then rc + 1 else rc)
      (w ++ xorBytes (slice w (pos - nk) (pos - nk + 4)) (expandWord nk pos rc w))

/-- `ExpandKey(key, Nk)` (R92): the loop runs from pos = Nk to SchedLen(Nk) in whole groups of four. -/
def expandKey (key : Bytes) (nk : Nat) : Bytes :=
  expandLoop nk ((schedLen nk - nk) / 4) nk 1 key

/-- The 240-byte image of a schedule in SCHED: the schedule, then zeros (R95). -/
def schedImage (w : Bytes) : Bytes := w ++ zeros (240 - w.length)

end Sys2Proof.Machine
end

