-- ==== Sys2Proof/Machine/BlockCipher.lean ====
section
/-! DEFINITION. The AES block cipher's functions (R97 to R107). -/

namespace Sys2Proof

/-- Row `row` of a column. -/
def Column.get (c : Column) (row : Fin 4) : Byte :=
  match row with
  | 0 => c.r0
  | 1 => c.r1
  | 2 => c.r2
  | 3 => c.r3

/-- Column `col` of the State. -/
def AesState.column (s : AesState) (col : Fin 4) : Column :=
  match col with
  | 0 => s.c0
  | 1 => s.c1
  | 2 => s.c2
  | 3 => s.c3

/-- `s[row][col]` (R97). -/
def AesState.get (s : AesState) (row col : Fin 4) : Byte := (s.column col).get row

/-- The column whose row `row` is `f row`. -/
def Column.ofFn (f : Fin 4 → Byte) : Column := { r0 := f 0, r1 := f 1, r2 := f 2, r3 := f 3 }

/-- The State whose `[row][col]` is `f row col`. -/
def AesState.ofFn (f : Fin 4 → Fin 4 → Byte) : AesState :=
  { c0 := Column.ofFn fun row => f row 0
    c1 := Column.ofFn fun row => f row 1
    c2 := Column.ofFn fun row => f row 2
    c3 := Column.ofFn fun row => f row 3 }

/-- The column's bytes, row 0 first. -/
def Column.bytes (c : Column) : Bytes := [c.r0, c.r1, c.r2, c.r3]

namespace Machine

/-- `Load(b)[row][col] = b[4*col + row]` (R97). -/
def load (b : Bytes) : AesState := AesState.ofFn fun row col => b.getD (4 * col.val + row.val) 0x00

/-- `Store(s)[4*col + row] = s[row][col]` (R98). -/
def store (s : AesState) : Bytes := s.c0.bytes ++ s.c1.bytes ++ s.c2.bytes ++ s.c3.bytes

/-- `RoundKey(W, r)[row][col] = W[16*r + 4*col + row]` (R94). -/
def roundKey (w : Bytes) (r : Nat) : AesState :=
  AesState.ofFn fun row col => w.getD (16 * r + 4 * col.val + row.val) 0x00

/-- `AddRoundKey(s, W, r)` (R99). -/
def addRoundKey (s : AesState) (w : Bytes) (r : Nat) : AesState :=
  AesState.ofFn fun row col => s.get row col ^^^ (roundKey w r).get row col

/-- `SubBytes(s)` (R100). -/
def subBytes (s : AesState) : AesState := AesState.ofFn fun row col => sbox (s.get row col)

/-- `InvSubBytes(s)` (R101). -/
def invSubBytes (s : AesState) : AesState := AesState.ofFn fun row col => invSbox (s.get row col)

/-- `ShiftRows(s)[row][col] = s[row][(col + row) mod 4]` (R102); the sum of two `Fin 4` is mod 4. -/
def shiftRows (s : AesState) : AesState := AesState.ofFn fun row col => s.get row (col + row)

/-- `InvShiftRows(s)[row][col] = s[row][(col - row) mod 4]` (R103). -/
def invShiftRows (s : AesState) : AesState := AesState.ofFn fun row col => s.get row (col - row)

/-- The matrix M of R104, row by row. -/
def mixMatrix : List Bytes := [[2, 3, 1, 1], [1, 2, 3, 1], [1, 1, 2, 3], [3, 1, 1, 2]]

/-- The matrix IM of R105, row by row. -/
def invMixMatrix : List Bytes := [[14, 11, 13, 9], [9, 14, 11, 13], [13, 9, 14, 11], [11, 13, 9, 14]]

/-- The term k of the sum of R104 and R105: GFMul8(M[row][k], s[k][col]). -/
def mixTerm (m : List Bytes) (s : AesState) (row col k : Fin 4) : Byte :=
  gfMul8 ((m.getD row.val []).getD k.val 0x00) (s.get k col)

/-- Every column multiplied by the matrix `m` (R104, R105). -/
def mixWith (m : List Bytes) (s : AesState) : AesState :=
  AesState.ofFn fun row col =>
    mixTerm m s row col 0 ^^^ mixTerm m s row col 1 ^^^ mixTerm m s row col 2 ^^^ mixTerm m s row col 3

/-- `MixColumns(s)` (R104). -/
def mixColumns (s : AesState) : AesState := mixWith mixMatrix s

/-- `InvMixColumns(s)` (R105). -/
def invMixColumns (s : AesState) : AesState := mixWith invMixMatrix s

/-- Round r of R106, 1 ≤ r < Nr. -/
def encRound (w : Bytes) (s : AesState) (r : Nat) : AesState :=
  addRoundKey (mixColumns (shiftRows (subBytes s))) w r

/-- Round r of R107, Nr > r ≥ 1. -/
def decRound (w : Bytes) (s : AesState) (r : Nat) : AesState :=
  invMixColumns (addRoundKey (invSubBytes (invShiftRows s)) w r)

/-- `AES_Encrypt(W, Nr, b)` (R106). -/
def aesEncrypt (w : Bytes) (nr : Nat) (b : Bytes) : Bytes :=
  let s := (List.range' 1 (nr - 1)).foldl (encRound w) (addRoundKey (load b) w 0)
  store (addRoundKey (shiftRows (subBytes s)) w nr)

/-- `AES_Decrypt(W, Nr, b)` (R107). -/
def aesDecrypt (w : Bytes) (nr : Nat) (b : Bytes) : Bytes :=
  let s := (List.range' 1 (nr - 1)).reverse.foldl (decRound w) (addRoundKey (load b) w nr)
  store (addRoundKey (invSubBytes (invShiftRows s)) w 0)

end Machine

end Sys2Proof
end

