-- ==== Sys2Proof/Machine/GcmMode.lean ====
section
/-! DEFINITION. GCM mode's functions (R120 to R125). -/

namespace Sys2Proof.Machine

/-- `Inc32(b)` (R120). -/
def inc32 (b : Bytes) : Bytes := slice b 0 12 ++ beBytes 4 ((be (slice b 12 16) + 1) % 2 ^ 32)

/-- `GHASH(H, X)` (R121). Its callers give it a multiple of 16 bytes. -/
def ghash (h x : Bytes) : Bytes :=
  (blocks x).foldl (fun y b => gfMul128 (xorBytes y b) h) (zeros 16)

/-- The loop of R122 over the chunks still to process, with the counter block `cb`. -/
def gctrBlocks (e : Bytes → Bytes) : Bytes → List Bytes → Bytes
  | _, [] => []
  | cb, c :: cs => xorBytes c ((e cb).take c.length) ++ gctrBlocks e (inc32 cb) cs

/-- `GCTR(ICB, X)` with the block function `e` (R122). -/
def gctr (e : Bytes → Bytes) (icb x : Bytes) : Bytes := gctrBlocks e icb (blocks x)

/-- The GHASH input of `DeriveJ0` for a nonce that is not 12 bytes long (R123). -/
def j0Input (n : Bytes) : Bytes := n ++ zeros (padLen n.length) ++ zeros 8 ++ beBytes 8 (8 * n.length)

/-- `DeriveJ0(H, N)` (R123). -/
def deriveJ0 (h n : Bytes) : Bytes :=
  if n.length = 12 then n ++ [0x00, 0x00, 0x00, 0x01] else ghash h (j0Input n)

/-- The GHASH input X of `ComputeTag` (R124). -/
def tagInput (a c : Bytes) : Bytes :=
  a ++ zeros (padLen a.length) ++ c ++ zeros (padLen c.length) ++ beBytes 8 (8 * a.length) ++ beBytes 8 (8 * c.length)

/-- `ComputeTag(C)` with the block function `e`, H, J0, the AAD and the tag length t (R124). -/
def computeTag (e : Bytes → Bytes) (h j0 a c : Bytes) (t : Nat) : Bytes :=
  (gctr e j0 (ghash h (tagInput a c))).take t

/-- `TagOK(T, k)` (R125) for TAGCMP = `cmp`, the computed tag `t`, of length TAGLEN = `tagLen`, and the array TAG. -/
def tagOk (cmp : Bool) (tagLen : Nat) (t tag : Bytes) (k : Nat) : Bool :=
  if cmp then k == tagLen && t == tag.take tagLen
  else decide (k ≤ tagLen) && t.take k == tag.take k

end Sys2Proof.Machine
end

