-- ==== Sys2Proof/Config.lean ====
section
/-! DEFINITION. What an instance of AESC fixes (R8, R44) and the free values of the spec (R43). -/

namespace Sys2Proof

/-- The parameters of an instance: the place of its window (R44, 92_eei_decisions.md P1), and its buffers' capacities (R8, P2 to
P4), readable in PARAM0 and PARAM1 (R21). -/
structure Config where
  /-- AESC_BASE: the address on the host's bus at which the window begins. The spec leaves it open, and its width too. -/
  base : Nat
  /-- Capacity of IN_BUF in bytes; OUT_BUF holds 16 more. -/
  maxMsg : Nat
  /-- Capacity of AAD_BUF in bytes. -/
  maxAad : Nat
  /-- Capacity of NONCE_BUF in bytes. -/
  maxNonce : Nat
  deriving DecidableEq, Repr

/-- The constraints of R8; AESC_BASE has none. -/
def Config.wf (c : Config) : Bool :=
  c.maxMsg % 16 == 0 && decide (16 ≤ c.maxMsg) && decide (c.maxMsg ≤ 16368) &&
  c.maxAad % 16 == 0 && decide (16 ≤ c.maxAad) && decide (c.maxAad ≤ 4096) &&
  c.maxNonce % 16 == 0 && decide (16 ≤ c.maxNonce) && decide (c.maxNonce ≤ 256)

/-- The reference configuration (R8), with the window at address 0 (DESIGN CHOICE, log 8). -/
def Config.reference : Config := { base := 0, maxMsg := 4096, maxAad := 1024, maxNonce := 256 }

/-- FREE VALUE (R43, log 2): the byte that the buffer offset `a` holds after the reset numbered `reset`. It has no body:
nothing can be proved of its value. -/
opaque Config.resetDraw (reset a : Nat) : Byte

end Sys2Proof
end

