-- ==== Sys2Proof/Machine/State.lean ====
section
/-! DEFINITION. The architectural state of AESC (R15), the names of its registers and arrays, and the ways a step can stop. -/

namespace Sys2Proof.Machine

/-- What ends a host access with an error response. -/
inductive Fault where
  /-- BusError(a) (R51, R133): raised by MemRead and MemWrite on an illegal access at offset `a`. The step does not stop:
  it hands the error to the host as the bus response and AESC goes on unchanged. Safe. -/
  | busError (a : BitVec 16)
  deriving DecidableEq, Repr

/-- Why a step has no meaning. -/
inductive Refusal where
  /-- Raised by an arm of exec whose command has no meaning yet. Safe. -/
  | notModelled (mnemonic : String)
  /-- Raised by GCM_ENC and GCM_DEC when CTX_VALID = 1 and KEYLEN = 0b11, where R90 leaves Rounds undefined. R79 excludes
  it from every reachable state. Safe. -/
  | keyLenUndefined
  deriving DecidableEq, Repr

/-- The error codes of STATUS.ERRCODE (R131). -/
inductive ErrCode where
  | ok
  | badOp
  | keyLen
  | len
  | pad
  | noCtx
  | tagLen
  | nonceLen
  | aadLen
  | auth
  /-- ERR_INTERNAL: reserved, raised by nothing (R131). -/
  | internal
  deriving DecidableEq, Repr

/-- CTRL's fields (R22); its other bits are reserved and read 0. -/
structure Ctrl where
  keyLen : BitVec 2
  ivGen : Bool
  tagCmp : Bool
  tagLen : BitVec 5
  deriving DecidableEq, Repr

/-- STATUS's fields (R24); its other bits are reserved and read 0. -/
structure Status where
  busy : Bool
  ksValid : Bool
  ctxValid : Bool
  authOk : Bool
  errCode : ErrCode
  lastOp : BitVec 4
  deriving DecidableEq, Repr

/-- The three interrupt bits: INT_STATUS (R25) and INT_ENABLE (R26) both hold them. -/
structure IntBits where
  done : Bool
  err : Bool
  busyErr : Bool
  deriving DecidableEq, Repr

/-- The registers of R18. -/
inductive Reg where
  | id
  | version
  | param0
  | param1
  | ctrl
  | cmd
  | status
  | intStatus
  | intEnable
  | msgLen
  | aadLen
  | nonceLen
  | tagInLen
  | outLen
  deriving DecidableEq, Repr

/-- The byte arrays of R30. -/
inductive Arr where
  | key
  | iv
  | tag
  | hsub
  | j0
  | sched
  | nonceBuf
  | aadBuf
  | inBuf
  | outBuf
  deriving DecidableEq, Repr

/-- What stands at an offset: a register, a byte array, or nothing (a reserved range, R47). -/
inductive Location where
  | reg (r : Reg)
  | arr (x : Arr)
  | reserved
  deriving DecidableEq, Repr

/-- The bus's answer to a host access (R49 to R51). -/
inductive BusResponse where
  /-- A read's n-byte value. -/
  | data (v : Word)
  /-- A write's OKAY, a dropped write's too (R76). -/
  | okay
  /-- The error response (R51). -/
  | error (f : Fault)
  deriving DecidableEq, Repr

/-- The state of AESC (R15). -/
structure State where
  /-- The instance's parameters: AESC_BASE (R44) and what PARAM0 and PARAM1 report (R21); no step changes them. -/
  cfg : Config
  /-- CTRL (R22). -/
  ctrl : Ctrl
  /-- STATUS (R24). -/
  status : Status
  /-- INT_STATUS (R25). -/
  intStatus : IntBits
  /-- INT_ENABLE (R26). -/
  intEnable : IntBits
  /-- MSG_LEN (R27). -/
  msgLen : BitVec 16
  /-- AAD_LEN (R27). -/
  aadLen : BitVec 16
  /-- NONCE_LEN (R27). -/
  nonceLen : BitVec 16
  /-- TAG_IN_LEN (R28). -/
  tagInLen : BitVec 5
  /-- OUT_LEN (R29). -/
  outLen : BitVec 16
  /-- The byte arrays of R30 at their offsets: the bytes that differ from what an unlisted offset reads as. -/
  mem : List Host.Cell
  /-- PENDING_OP (R41). -/
  pendingOp : BitVec 4
  /-- RNG_WAIT (R41). -/
  rngWait : Bool
  /-- The draw standing on the RNG port, not yet taken (R14, log 4). -/
  rngPort : Option (Vector Byte 16)
  /-- The model's own: the number of resets so far, which numbers the draws of R43 (log 2). -/
  resets : Nat
  /-- The model's own: the events still to come, first first (R57, log 1). -/
  events : List Event
  /-- The model's own: the bus's answer to the latest host access (log 5). -/
  response : Option BusResponse
  deriving DecidableEq, Repr

/-- The state after reset (R147), of an instance with the reference configuration (log 3). -/
def State.reset : State :=
  { cfg := Config.reference
    ctrl := { keyLen := 0, ivGen := false, tagCmp := false, tagLen := 16 }
    status := { busy := false, ksValid := false, ctxValid := false, authOk := false, errCode := .ok, lastOp := 0 }
    intStatus := { done := false, err := false, busyErr := false }
    intEnable := { done := false, err := false, busyErr := false }
    msgLen := 0
    aadLen := 0
    nonceLen := 0
    tagInLen := 0
    outLen := 0
    mem := []
    pendingOp := 0
    rngWait := false
    rngPort := none
    resets := 0
    events := []
    response := none }

end Sys2Proof.Machine
end

