-- ==== Sys2Proof/Machine/Ops.lean ====
section
/-! DEFINITION. The named operations over memory, arrays and registers: the byte memory in its canonical form, the address
map (R18, R30), and the completion of a command with its failure path (R70, R71). -/

namespace Sys2Proof.Machine

/-! ### The byte memory -/

/-- What an unlisted offset reads as: 0x00 in the arrays below NONCE_BUF, which reset to zero, and the reset's draw in the
four buffers (R30, R43, R147). -/
def Memory.unlisted (gen a : Nat) : Byte := if a < 0x300 then 0x00 else Config.resetDraw gen a

/-- The byte at offset `a`. -/
def Memory.read (gen : Nat) : List Host.Cell → Nat → Byte
  | [], a => Memory.unlisted gen a
  | (b, w) :: m, a => if b = a then w else Memory.read gen m a

/-- The cell list with `v` at offset `a` put before `m`, unless `v` is what `a` reads as unlisted. -/
def Memory.cons (gen a : Nat) (v : Byte) (m : List Host.Cell) : List Host.Cell :=
  if v = Memory.unlisted gen a then m else (a, v) :: m

/-- Byte `v` written at offset `a`, in canonical form. -/
def Memory.write (gen : Nat) : List Host.Cell → Nat → Byte → List Host.Cell
  | [], a, v => Memory.cons gen a v []
  | (b, w) :: m, a, v =>
    if a < b then Memory.cons gen a v ((b, w) :: m)
    else if a = b then Memory.cons gen a v m
    else (b, w) :: Memory.write gen m a v

/-- The canonical form: offsets strictly rising, and no cell equal to what its offset reads as unlisted. -/
def Memory.wf (gen : Nat) : List Host.Cell → Bool
  | [] => true
  | (a, v) :: m => !(v == Memory.unlisted gen a) && m.all (fun c => decide (a < c.1)) && Memory.wf gen m

/-- The `n` bytes from offset `a` on. -/
def Memory.readBytes (gen : Nat) (m : List Host.Cell) : Nat → Nat → Bytes
  | _, 0 => []
  | a, n + 1 => Memory.read gen m a :: Memory.readBytes gen m (a + 1) n

/-- The bytes `bs` written from offset `a` on. -/
def Memory.writeBytes (gen : Nat) : List Host.Cell → Nat → Bytes → List Host.Cell
  | m, _, [] => m
  | m, a, b :: bs => Memory.writeBytes gen (Memory.write gen m a b) (a + 1) bs

/-- `Byte(x)` (R49): the array byte at offset `a`. -/
def State.byteAt (s : State) (a : Nat) : Byte := Memory.read s.resets s.mem a

/-- The memory of the state is in canonical form. -/
def State.memWf (s : State) : Bool := Memory.wf s.resets s.mem

/-- The state with the bytes `bs` stored from offset `a` on. -/
def State.storeBytes (s : State) (a : Nat) (bs : Bytes) : State :=
  { s with mem := Memory.writeBytes s.resets s.mem a bs }

/-! ### The address map -/

/-- The base offset of an array (R30). -/
def Arr.base : Arr → Nat
  | .key => 0x0100
  | .iv => 0x0120
  | .tag => 0x0130
  | .hsub => 0x0140
  | .j0 => 0x0150
  | .sched => 0x0200
  | .nonceBuf => 0x0300
  | .aadBuf => 0x1000
  | .inBuf => 0x4000
  | .outBuf => 0x8000

/-- The size of an array in bytes (R30). -/
def Arr.size (cfg : Config) : Arr → Nat
  | .key => 32
  | .iv => 16
  | .tag => 16
  | .hsub => 16
  | .j0 => 16
  | .sched => 240
  | .nonceBuf => cfg.maxNonce
  | .aadBuf => cfg.maxAad
  | .inBuf => cfg.maxMsg
  | .outBuf => cfg.maxMsg + 16

/-- The arrays a host may not write (R48). -/
def Arr.readOnly : Arr → Bool
  | .key => false
  | .iv => false
  | .tag => false
  | .hsub => true
  | .j0 => true
  | .sched => true
  | .nonceBuf => false
  | .aadBuf => false
  | .inBuf => false
  | .outBuf => true

/-- The ten arrays, lowest base first. -/
def Arr.all : List Arr := [.key, .iv, .tag, .hsub, .j0, .sched, .nonceBuf, .aadBuf, .inBuf, .outBuf]

/-- The array that covers offset `a`, if one does (R30). -/
def Arr.at (cfg : Config) (a : Nat) : Option Arr :=
  Arr.all.find? fun x => decide (x.base ≤ a) && decide (a < x.base + x.size cfg)

/-- The register at offset `a`, if one stands there (R18). -/
def Reg.at (a : Nat) : Option Reg :=
  match a with
  | 0x000 => some .id
  | 0x004 => some .version
  | 0x008 => some .param0
  | 0x00C => some .param1
  | 0x010 => some .ctrl
  | 0x014 => some .cmd
  | 0x018 => some .status
  | 0x01C => some .intStatus
  | 0x020 => some .intEnable
  | 0x024 => some .msgLen
  | 0x028 => some .aadLen
  | 0x02C => some .nonceLen
  | 0x030 => some .tagInLen
  | 0x034 => some .outLen
  | _ => none

/-- The offset of CMD (R18). -/
def cmdOffset : BitVec 16 := 0x0014

/-- The registers a host may not write (R48). -/
def Reg.readOnly : Reg → Bool
  | .id => true
  | .version => true
  | .param0 => true
  | .param1 => true
  | .ctrl => false
  | .cmd => false
  | .status => true
  | .intStatus => false
  | .intEnable => false
  | .msgLen => false
  | .aadLen => false
  | .nonceLen => false
  | .tagInLen => false
  | .outLen => true

/-- The number of bytes of an access (R46). -/
def Size.bytes : Size → Nat
  | .byte => 1
  | .half => 2
  | .word => 4

/-- What an access of size `n` at offset `a` reaches (R46, R47): a register by a 4-byte access at a multiple of 4, an array
by a naturally aligned access, and nothing (a bus error) otherwise. -/
def locate (cfg : Config) (n : Size) (a : Nat) : Location :=
  if a < 0x100 then
    if n = .word ∧ a % 4 = 0 then
      match Reg.at a with
      | some r => .reg r
      | none => .reserved
    else .reserved
  else if a % Size.bytes n = 0 then
    match Arr.at cfg a with
    | some x => .arr x
    | none => .reserved
  else .reserved

/-- The offset that the bus address `addr` has in the window of 65536 offsets at AESC_BASE (R44); none outside the window. -/
def windowOffset (cfg : Config) (addr : Nat) : Option (BitVec 16) :=
  if cfg.base ≤ addr ∧ addr < cfg.base + 0x10000 then some (BitVec.ofNat 16 (addr - cfg.base)) else none

/-- Bytes `i` to `i + n - 1` of an array. -/
def State.arrSlice (s : State) (x : Arr) (i n : Nat) : Bytes := Memory.readBytes s.resets s.mem (x.base + i) n

/-- `X[0..len(bs)) <- bs` for an array X. -/
def State.setArr (s : State) (x : Arr) (bs : Bytes) : State := s.storeBytes x.base bs

/-! ### Completion of a command -/

/-- The outcome of a command's Exec (R70). -/
inductive ExecResult where
  /-- Success: the state with the command's result writes, and OUT_LEN. -/
  | ok (s : State) (outlen : Nat)
  /-- `fail(CODE)` (R71). -/
  | fail (code : ErrCode)
  /-- A CBC_ENC with IVGEN = 1 to whose RNG port no draw has come (R41, R156). -/
  | waitRng
  /-- The command has no meaning in this state. -/
  | refuse (r : Refusal)
  deriving DecidableEq, Repr

/-- The flags and OUT_LEN that every completion step writes (R70), over the state with the command's writes applied. -/
def State.complete (s : State) (op : BitVec 4) (code : ErrCode) (outlen : Nat) : State :=
  { s with
    outLen := BitVec.ofNat 16 outlen
    status := { s.status with
      errCode := code
      lastOp := op
      authOk := op == 0x8 && code == .ok
      busy := false }
    intStatus := { s.intStatus with
      done := true
      err := s.intStatus.err || !(code == .ok) } }

/-- The failure of a command (R71, R137): the one shared path every command error takes. There is no trap entry and no
return from one (R137, R138). -/
def State.failCommand (s : State) (op : BitVec 4) (code : ErrCode) : State := s.complete op code 0

/-- The completion step of the command with opcode `op` (R70). `s` is the state with the command's failure writes: the state
itself but for GCM_INIT. A command that waits for the RNG stays pending with RNG_WAIT set (R41, R156). -/
def finish (op : BitVec 4) (s : State) : ExecResult → Host.Outcome State Fault Refusal
  | .ok t outlen => .next (t.complete op .ok outlen)
  | .fail code => .next (s.failCommand op code)
  | .waitRng => .next { s with rngWait := true }
  | .refuse r => .refused r

end Sys2Proof.Machine
end

