-- ==== Sys2Proof/Machine/Operands.lean ====
section
/-! DEFINITION. The implicit operands of the commands (R63) and the common expansion step (R95). -/

namespace Sys2Proof.Machine

/-- `KEY[0..Nk)` (R31). -/
def State.key (s : State) (nk : Nat) : Bytes := s.arrSlice .key 0 nk

/-- `IV[0..16)` (R32). -/
def State.iv (s : State) : Bytes := s.arrSlice .iv 0 16

/-- The whole array TAG (R33). -/
def State.tag (s : State) : Bytes := s.arrSlice .tag 0 16

/-- HSUB (R34). -/
def State.hsub (s : State) : Bytes := s.arrSlice .hsub 0 16

/-- J0 (R35). -/
def State.j0 (s : State) : Bytes := s.arrSlice .j0 0 16

/-- SCHED (R36). -/
def State.sched (s : State) : Bytes := s.arrSlice .sched 0 240

/-- `NONCE_BUF[0..NONCE_LEN)` (R37). -/
def State.nonce (s : State) : Bytes := s.arrSlice .nonceBuf 0 s.nonceLen.toNat

/-- `AAD_BUF[0..AAD_LEN)` (R38). -/
def State.aad (s : State) : Bytes := s.arrSlice .aadBuf 0 s.aadLen.toNat

/-- `IN_BUF[0..n)` (R39). -/
def State.input (s : State) (n : Nat) : Bytes := s.arrSlice .inBuf 0 n

/-- `OUT_BUF[0..n)` (R40). -/
def State.output (s : State) (n : Nat) : Bytes := s.arrSlice .outBuf 0 n

/-- The message `IN_BUF[0..MSG_LEN)` (R27). -/
def State.message (s : State) : Bytes := s.input s.msgLen.toNat

/-- `SCHED <- SchedImage; STATUS.KS_VALID <- 1` (R95), with the schedule `w`. -/
def State.setSched (s : State) (w : Bytes) : State :=
  let t := s.setArr .sched (schedImage w)
  { t with status := { t.status with ksValid := true } }

/-- The schedule of the current key (R95) with its Nk; `none` is the failure ERR_KEYLEN. -/
def State.expand (s : State) : Option (Nat × Bytes) :=
  match keyBytes s.ctrl.keyLen with
  | some nk => some (nk, expandKey (s.key nk) nk)
  | none => none

/-- A command that begins with `ExpandStep` (R95): it fails with ERR_KEYLEN or goes on with Nr and the schedule. -/
def withKey (s : State) (f : Nat → Bytes → ExecResult) : ExecResult :=
  match s.expand with
  | some (nk, w) => f (rounds nk) w
  | none => .fail .keyLen

/-- A command that runs in the GCM context (R127, R128): it fails with ERR_NOCTX, then with ERR_LEN, or goes on with the
context's block function E. Rounds is undefined for KEYLEN = 0b11 (R90), which no context has (R79). -/
def withContext (s : State) (f : (Bytes → Bytes) → ExecResult) : ExecResult :=
  if s.status.ctxValid = false then .fail .noCtx
  else if s.msgLen.toNat > s.cfg.maxMsg then .fail .len
  else
    match keyBytes s.ctrl.keyLen with
    | some nk => f (aesEncrypt s.sched (rounds nk))
    | none => .refuse .keyLenUndefined

end Sys2Proof.Machine
end

