-- ==== Sys2Proof/Machine/Flags.lean ====
section
/-! DEFINITION. The register words (R19 to R29), the interrupt output (R135), the invalidation of the schedule and the
context (R78), and the waiting flag BUSYERR (R76). -/

namespace Sys2Proof.Machine

/-- A flag as a bit of a register. -/
def flagBit (b : Bool) (i : Nat) : Word := if b then 1 <<< i else 0

/-- The 4-bit code of an outcome (R131). -/
def ErrCode.code : ErrCode → BitVec 4
  | .ok => 0
  | .badOp => 1
  | .keyLen => 2
  | .len => 3
  | .pad => 4
  | .noCtx => 5
  | .tagLen => 6
  | .nonceLen => 7
  | .aadLen => 8
  | .auth => 9
  | .internal => 10

/-- CTRL's word (R22). -/
def Ctrl.toWord (c : Ctrl) : Word :=
  c.keyLen.setWidth 32 ||| flagBit c.ivGen 2 ||| flagBit c.tagCmp 3 ||| (c.tagLen.setWidth 32 <<< 8)

/-- The fields that a write of `v` to CTRL stores, whatever their values (R22). -/
def Ctrl.ofWord (v : Word) : Ctrl :=
  { keyLen := v.extractLsb' 0 2
    ivGen := v.getLsbD 2
    tagCmp := v.getLsbD 3
    tagLen := v.extractLsb' 8 5 }

/-- STATUS's word (R24). -/
def Status.toWord (t : Status) : Word :=
  flagBit t.busy 0 ||| flagBit t.ksValid 1 ||| flagBit t.ctxValid 2 ||| flagBit t.authOk 3 |||
  (t.errCode.code.setWidth 32 <<< 8) ||| (t.lastOp.setWidth 32 <<< 12)

/-- The word of INT_STATUS or INT_ENABLE (R25, R26). -/
def IntBits.toWord (b : IntBits) : Word := flagBit b.done 0 ||| flagBit b.err 1 ||| flagBit b.busyErr 2

/-- The bits that a write of `v` to INT_ENABLE stores (R26). -/
def IntBits.ofWord (v : Word) : IntBits :=
  { done := v.getLsbD 0, err := v.getLsbD 1, busyErr := v.getLsbD 2 }

/-- INT_STATUS after a write of `v`: a 1 clears its bit (R25). -/
def IntBits.clear (b : IntBits) (v : Word) : IntBits :=
  { done := b.done && !v.getLsbD 0
    err := b.err && !v.getLsbD 1
    busyErr := b.busyErr && !v.getLsbD 2 }

/-- The 32-bit value of a register (R18 to R29); CMD reads 0. -/
def regValue (s : State) : Reg → Word
  | .id => 0x41455343
  | .version => 0x00010000
  | .param0 => (BitVec.ofNat 32 s.cfg.maxAad <<< 16) ||| BitVec.ofNat 32 s.cfg.maxMsg
  | .param1 => BitVec.ofNat 32 s.cfg.maxNonce
  | .ctrl => s.ctrl.toWord
  | .cmd => 0
  | .status => s.status.toWord
  | .intStatus => s.intStatus.toWord
  | .intEnable => s.intEnable.toWord
  | .msgLen => s.msgLen.setWidth 32
  | .aadLen => s.aadLen.setWidth 32
  | .nonceLen => s.nonceLen.setWidth 32
  | .tagInLen => s.tagInLen.setWidth 32
  | .outLen => s.outLen.setWidth 32

/-- The interrupt output: (INT_STATUS AND INT_ENABLE) ≠ 0 (R135). -/
def State.irq (s : State) : Bool :=
  (s.intStatus.done && s.intEnable.done) || (s.intStatus.err && s.intEnable.err) ||
  (s.intStatus.busyErr && s.intEnable.busyErr)

/-- `STATUS.CTX_VALID <- 0` (R78, R126). -/
def State.dropContext (s : State) : State := { s with status := { s.status with ctxValid := false } }

/-- `STATUS.KS_VALID <- 0; STATUS.CTX_VALID <- 0` (R78). -/
def State.dropKey (s : State) : State :=
  { s with status := { s.status with ksValid := false, ctxValid := false } }

/-- `invalidate(X)` for an array (R78). -/
def State.invalidateArr (s : State) : Arr → State
  | .key => s.dropKey
  | .nonceBuf => s.dropContext
  | .aadBuf => s.dropContext
  | .iv => s
  | .tag => s
  | .hsub => s
  | .j0 => s
  | .sched => s
  | .inBuf => s
  | .outBuf => s

/-- `INT_STATUS.BUSYERR <- 1`: a write was dropped (R76). -/
def State.noteBusyErr (s : State) : State := { s with intStatus := { s.intStatus with busyErr := true } }

end Sys2Proof.Machine
end

