-- ==== Sys2Proof/Machine/Block.lean ====
section
/-! DEFINITION. KEYEXP (R96), ENC_BLOCK (R110) and DEC_BLOCK (R111). -/

namespace Sys2Proof.Machine

/-- KEYEXP's Exec (R96): the outlen is the schedule's length, SchedLen(Nk) (R93). -/
def runKeyexp (s : State) : ExecResult :=
  withKey s fun nr w => .ok (s.setSched w) (16 * (nr + 1))

/-- KEYEXP (R96). -/
def execKeyexp (s : State) : Host.Outcome State Fault Refusal := finish 0x1 s (runKeyexp s)

/-- ENC_BLOCK's Exec (R110): MSG_LEN is not read (R109). -/
def runEncBlock (s : State) : ExecResult :=
  withKey s fun nr w => .ok ((s.setSched w).setArr .outBuf (aesEncrypt w nr (s.input 16))) 16

/-- ENC_BLOCK (R110). -/
def execEncBlock (s : State) : Host.Outcome State Fault Refusal := finish 0x2 s (runEncBlock s)

/-- DEC_BLOCK's Exec (R111). -/
def runDecBlock (s : State) : ExecResult :=
  withKey s fun nr w => .ok ((s.setSched w).setArr .outBuf (aesDecrypt w nr (s.input 16))) 16

/-- DEC_BLOCK (R111). -/
def execDecBlock (s : State) : Host.Outcome State Fault Refusal := finish 0x3 s (runDecBlock s)

end Sys2Proof.Machine
end

