-- ==== Sys2Proof/Machine/CbcMode.lean ====
section
/-! DEFINITION. CBC mode's functions: padding (R112, R113) and chaining (R114, R115). -/

namespace Sys2Proof.Machine

/-- `Pad(m)` (R112). -/
def pad (m : Bytes) : Bytes :=
  m ++ List.replicate (16 - m.length % 16) (BitVec.ofNat 8 (16 - m.length % 16))

/-- The Boolean `valid` of R113 for the pad length `p`: one value over the whole trailing sequence. -/
def padValid (x : Bytes) (p : Byte) : Bool :=
  decide (1 ≤ p.toNat) && decide (p.toNat ≤ 16) && decide (p.toNat ≤ x.length) &&
  x.drop (x.length - p.toNat) == List.replicate p.toNat p

/-- `Unpad(x)` (R113): `none` is bad. -/
def unpad (x : Bytes) : Option Bytes :=
  let p := x.getLastD 0x00
  if padValid x p then some (x.take (x.length - p.toNat)) else none

/-- The loop of R114 over the blocks still to encrypt. -/
def cbcEncBlocks (e : Bytes → Bytes) : Bytes → List Bytes → Bytes
  | _, [] => []
  | prev, p :: ps => e (xorBytes p prev) ++ cbcEncBlocks e (e (xorBytes p prev)) ps

/-- `CBC_Encrypt(iv, P)` with the block function `e` (R114). -/
def cbcEncrypt (e : Bytes → Bytes) (iv p : Bytes) : Bytes := cbcEncBlocks e iv (blocks p)

/-- The loop of R115 over the blocks still to decrypt. -/
def cbcDecBlocks (d : Bytes → Bytes) : Bytes → List Bytes → Bytes
  | _, [] => []
  | prev, c :: cs => xorBytes (d c) prev ++ cbcDecBlocks d c cs

/-- `CBC_Decrypt(iv, C)` with the block function `d` (R115). -/
def cbcDecrypt (d : Bytes → Bytes) (iv c : Bytes) : Bytes := cbcDecBlocks d iv (blocks c)

end Sys2Proof.Machine
end

