-- ==== Sys2Proof/Machine/Cbc.lean ====
section
/-! DEFINITION. CBC_ENC (R116) and CBC_DEC (R117). -/

namespace Sys2Proof.Machine

/-- CBC_ENC's writes with the IV `iv` (R116): SCHED, KS_VALID and OUT_BUF. -/
def State.cbcEncWrites (s : State) (nr : Nat) (w iv : Bytes) : State :=
  (s.setSched w).setArr .outBuf (cbcEncrypt (aesEncrypt w nr) iv (pad s.message))

/-- CBC_ENC's OUT_LEN: the padded length (R29, R116). -/
def paddedLen (n : Nat) : Nat := n + 16 - n % 16

/-- `draw16()` taken and the IV written: the port is emptied and nothing waits any more (R14, R116). -/
def State.takeDraw (s : State) (draw : Vector Byte 16) : State :=
  { s.setArr .iv draw.toList with rngPort := none, rngWait := false }

/-- CBC_ENC's Exec (R116). The draw is asked for after the checks pass. -/
def runCbcEnc (s : State) : ExecResult :=
  withKey s fun nr w =>
    if s.msgLen.toNat > s.cfg.maxMsg then .fail .len
    else if s.ctrl.ivGen then
      match s.rngPort with
      | some draw => .ok ((s.cbcEncWrites nr w draw.toList).takeDraw draw) (paddedLen s.msgLen.toNat)
      | none => .waitRng
    else .ok (s.cbcEncWrites nr w s.iv) (paddedLen s.msgLen.toNat)

/-- CBC_ENC (R116). -/
def execCbcEnc (s : State) : Host.Outcome State Fault Refusal := finish 0x4 s (runCbcEnc s)

/-- CBC_DEC's Exec (R117). -/
def runCbcDec (s : State) : ExecResult :=
  withKey s fun nr w =>
    if s.msgLen.toNat = 0 ∨ s.msgLen.toNat % 16 ≠ 0 ∨ s.msgLen.toNat > s.cfg.maxMsg then .fail .len
    else
      match unpad (cbcDecrypt (aesDecrypt w nr) s.iv s.message) with
      | some m => .ok ((s.setSched w).setArr .outBuf m) m.length
      | none => .fail .pad

/-- CBC_DEC (R117). -/
def execCbcDec (s : State) : Host.Outcome State Fault Refusal := finish 0x5 s (runCbcDec s)

end Sys2Proof.Machine
end

