-- ==== Sys2Proof/Machine/Gcm.lean ====
section
/-! DEFINITION. GCM_INIT (R126), GCM_ENC (R127) and GCM_DEC (R128). -/

namespace Sys2Proof.Machine

/-- GCM_INIT's result writes: HSUB, J0 and CTX_VALID (R126). -/
def State.setContext (s : State) (h j : Bytes) : State :=
  let t := (s.setArr .hsub h).setArr .j0 j
  { t with status := { t.status with ctxValid := true } }

/-- GCM_INIT's Exec (R126). -/
def runGcmInit (s : State) : ExecResult :=
  withKey s fun nr w =>
    if s.ctrl.tagLen.toNat < 1 ∨ s.ctrl.tagLen.toNat > 16 then .fail .tagLen
    else if s.nonceLen.toNat = 0 ∨ s.nonceLen.toNat > s.cfg.maxNonce then .fail .nonceLen
    else if s.aadLen.toNat > s.cfg.maxAad then .fail .aadLen
    else
      let h := aesEncrypt w nr (zeros 16)
      .ok ((s.setSched w).setContext h (deriveJ0 h s.nonce)) 0

/-- GCM_INIT (R126): its failure write is CTX_VALID <- 0. -/
def execGcmInit (s : State) : Host.Outcome State Fault Refusal := finish 0x6 s.dropContext (runGcmInit s)

/-- `ComputeTag(C)` in the context of the state (R124). -/
def State.computeTag (s : State) (e : Bytes → Bytes) (c : Bytes) : Bytes :=
  Machine.computeTag e s.hsub s.j0 s.aad c s.ctrl.tagLen.toNat

/-- GCM_ENC's writes for the ciphertext `c` and the tag `t` (R127): OUT_BUF, TAG with zeros after the tag, TAG_IN_LEN. -/
def State.gcmEncWrites (s : State) (c t : Bytes) : State :=
  let u := (s.setArr .outBuf c).setArr .tag (t ++ zeros (16 - s.ctrl.tagLen.toNat))
  { u with tagInLen := s.ctrl.tagLen }

/-- GCM_ENC's Exec (R127). -/
def runGcmEnc (s : State) : ExecResult :=
  withContext s fun e =>
    let c := gctr e (inc32 s.j0) s.message
    .ok (s.gcmEncWrites c (s.computeTag e c)) s.msgLen.toNat

/-- GCM_ENC (R127). -/
def execGcmEnc (s : State) : Host.Outcome State Fault Refusal := finish 0x7 s (runGcmEnc s)

/-- GCM_DEC's Exec (R128): the tag is checked before any decryption. -/
def runGcmDec (s : State) : ExecResult :=
  withContext s fun e =>
    if tagOk s.ctrl.tagCmp s.ctrl.tagLen.toNat (s.computeTag e s.message) s.tag s.tagInLen.toNat then
      .ok (s.setArr .outBuf (gctr e (inc32 s.j0) s.message)) s.msgLen.toNat
    else .fail .auth

/-- GCM_DEC (R128). -/
def execGcmDec (s : State) : Host.Outcome State Fault Refusal := finish 0x8 s (runGcmDec s)

end Sys2Proof.Machine
end

