-- ==== Sys2Proof/Machine/Lifecycle.lean ====
section
/-! DEFINITION. The commands that compute nothing: NOP (R74) and the reserved opcodes (R75). -/

namespace Sys2Proof.Machine

/-- NOP (R74): no state changes. -/
def execNop (s : State) : Host.Outcome State Fault Refusal := .next s

/-- Reserved opcode 0x9 (R75): ERR_BADOP. -/
def execReserved9 (s : State) : Host.Outcome State Fault Refusal := finish 0x9 s (.fail .badOp)

/-- Reserved opcodes 0xA and 0xB (R75): ERR_BADOP. -/
def execReservedAB (op : BitVec 4) (s : State) : Host.Outcome State Fault Refusal := finish op s (.fail .badOp)

/-- Reserved opcodes 0xC to 0xF (R75): ERR_BADOP. -/
def execReservedCF (op : BitVec 4) (s : State) : Host.Outcome State Fault Refusal := finish op s (.fail .badOp)

end Sys2Proof.Machine
end

