-- ==== Sys2Proof/Machine/Bus.lean ====
section
/-! DEFINITION. The events of R57: host accesses (R46 to R51, R76, R77), the bus target port (R44), the issue of a command (R69), the engine's completion
step (R70), the RNG's delivery (R14) and reset (R146 to R148). -/

namespace Sys2Proof.Machine

/-- The registers a read sees while BUSY = 1 (R49, R77); CMD reads 0 as always. -/
def Reg.busyReadable : Reg → Bool
  | .id => true
  | .version => true
  | .param0 => true
  | .param1 => true
  | .ctrl => false
  | .cmd => true
  | .status => true
  | .intStatus => true
  | .intEnable => true
  | .msgLen => false
  | .aadLen => false
  | .nonceLen => false
  | .tagInLen => false
  | .outLen => false

/-- The registers a write reaches while BUSY = 1 (R50, R76). -/
def Reg.busyWritable : Reg → Bool
  | .id => false
  | .version => false
  | .param0 => false
  | .param1 => false
  | .ctrl => false
  | .cmd => false
  | .status => false
  | .intStatus => true
  | .intEnable => true
  | .msgLen => false
  | .aadLen => false
  | .nonceLen => false
  | .tagInLen => false
  | .outLen => false

/-- `MemRead(a, n)` (R49). -/
def memRead (s : State) (n : Size) (a : BitVec 16) : Except Fault Word :=
  match locate s.cfg n a.toNat with
  | .reserved => .error (.busError a)
  | .reg r => .ok (if s.status.busy && !r.busyReadable then 0 else regValue s r)
  | .arr _ => .ok (if s.status.busy then 0 else leWord (Memory.readBytes s.resets s.mem a.toNat (Size.bytes n)))

/-- A write of `v` to a register while it may be written (R50); CMD and the read-only registers store nothing. -/
def State.writeReg (s : State) (v : Word) : Reg → State
  | .ctrl => { s with ctrl := Ctrl.ofWord v }.dropKey
  | .intStatus => { s with intStatus := s.intStatus.clear v }
  | .intEnable => { s with intEnable := IntBits.ofWord v }
  | .msgLen => { s with msgLen := v.extractLsb' 0 16 }
  | .aadLen => { s with aadLen := v.extractLsb' 0 16 }.dropContext
  | .nonceLen => { s with nonceLen := v.extractLsb' 0 16 }.dropContext
  | .tagInLen => { s with tagInLen := v.extractLsb' 0 5 }
  | .cmd => s
  | .id => s
  | .version => s
  | .param0 => s
  | .param1 => s
  | .status => s
  | .outLen => s

/-- A write of the `n` low bytes of `v` to array `x` at offset `a` (R50). -/
def State.writeArr (s : State) (n : Size) (a : Nat) (v : Word) (x : Arr) : State :=
  (s.storeBytes a (leBytes (Size.bytes n) v)).invalidateArr x

/-- The issue of the command word `v` (R69): a NOP runs at once and any other command becomes pending. -/
def issue (s : State) (v : Word) : Host.Outcome State Fault Refusal :=
  match decode v with
  | .nop => exec .nop s
  | i => .next { s with pendingOp := opcode i, status := { s.status with busy := true } }

/-- The bus's answer given to the host. -/
def State.respond (s : State) (r : BusResponse) : State := { s with response := some r }

/-- A host read: it changes nothing but the bus's answer (R49, R55). -/
def hostRead (s : State) (n : Size) (a : BitVec 16) : State :=
  match memRead s n a with
  | .ok v => s.respond (.data v)
  | .error f => s.respond (.error f)

/-- `MemWrite(a, n, v)` (R48, R50, R51, R76). -/
def hostWrite (s : State) (n : Size) (a : BitVec 16) (v : Word) : Host.Outcome State Fault Refusal :=
  match locate s.cfg n a.toNat with
  | .reserved => .next (s.respond (.error (.busError a)))
  | .reg r =>
    if r.readOnly then .next (s.respond (.error (.busError a)))
    else if s.status.busy && !r.busyWritable then .next (s.noteBusyErr.respond .okay)
    else if r = .cmd then issue (s.respond .okay) v
    else .next ((s.writeReg v r).respond .okay)
  | .arr x =>
    if x.readOnly then .next (s.respond (.error (.busError a)))
    else if s.status.busy then .next (s.noteBusyErr.respond .okay)
    else .next ((s.writeArr n a.toNat v x).respond .okay)

/-- One read of a POLL (R67): when the masked value is not the wanted one, the engine gets its turn and the POLL repeats;
a bus error ends it (log 7). -/
def hostPoll (s : State) (a : BitVec 16) (mask val : Word) : State :=
  match memRead s .word a with
  | .ok v =>
    if v &&& mask = val then s.respond (.data v)
    else { s.respond (.data v) with events := .engine :: .poll a mask val :: s.events }
  | .error f => s.respond (.error f)

/-- The engine's turn (R70, R72): the completion step of PENDING_OP while BUSY = 1, and no step while BUSY = 0. -/
def engineTurn (s : State) : Host.Outcome State Fault Refusal :=
  if s.status.busy then exec (decodeOp s.pendingOp) s else .next s

/-- The RNG puts a draw on its port and the wait for it ends (R14, R41). A draw that still stands there stays (log 4). -/
def State.rngDeliver (s : State) (draw : Vector Byte 16) : State :=
  match s.rngPort with
  | none => { s with rngPort := some draw, rngWait := false }
  | some _ => s

/-- Reset (R146 to R148): the state of R147, with fresh draws in the buffers; the draw on the RNG port is not consumed
(R148) and the environment's events go on. DESIGN CHOICE (log 5): the bus's answer is cleared, as in `State.reset`. -/
def State.resetNow (s : State) : State :=
  { State.reset with cfg := s.cfg, rngPort := s.rngPort, resets := s.resets + 1, events := s.events }

/-- The host write that an event is to AESC, if it is one: by offset, or at a bus address inside the window (R44). -/
def hostWriteOf (cfg : Config) : Event → Option (Size × BitVec 16 × Word)
  | .write n a v => some (n, a, v)
  | .busWrite n addr v => (windowOffset cfg addr).map fun a => (n, a, v)
  | .read _ _ => none
  | .poll _ _ _ => none
  | .busRead _ _ => none
  | .engine => none
  | .rng _ => none
  | .reset => none

/-- A read at the bus target port (R44): AESC answers inside its window; an access elsewhere does not reach it (log 8). -/
def portRead (s : State) (n : Size) (addr : Nat) : State :=
  match windowOffset s.cfg addr with
  | some a => hostRead s n a
  | none => s

/-- A write at the bus target port (R44), as `portRead`. -/
def portWrite (s : State) (n : Size) (addr : Nat) (v : Word) : Host.Outcome State Fault Refusal :=
  match windowOffset s.cfg addr with
  | some a => hostWrite s n a v
  | none => .next s

/-- One event of the total order (R57). -/
def runEvent (s : State) : Event → Host.Outcome State Fault Refusal
  | .read n a => .next (hostRead s n a)
  | .write n a v => hostWrite s n a v
  | .poll a mask val => .next (hostPoll s a mask val)
  | .busRead n addr => .next (portRead s n addr)
  | .busWrite n addr v => portWrite s n addr v
  | .engine => engineTurn s
  | .rng draw => .next (s.rngDeliver draw)
  | .reset => .next s.resetNow

/-- One step: the next event if there is one; otherwise the engine's turn (R156's fairness, log 1). -/
def takeStep (s : State) : Host.Outcome State Fault Refusal :=
  match s.events with
  | [] => engineTurn s
  | e :: es => runEvent { s with events := es } e

/-- A state in which the next step runs the command word `v`: a NOP stands as the next CMD write of an idle engine; any
other command is pending and the engine has the next turn (log 11). -/
def State.placeCommand (s : State) (v : Word) : State :=
  if decode v = .nop then
    { s with status := { s.status with busy := false }, events := .write .word cmdOffset v :: s.events }
  else
    { s with
      pendingOp := opField v
      status := { s.status with busy := true }
      events := .engine :: s.events }

end Sys2Proof.Machine
end

