-- ==== Sys2Proof/Machine/Step.lean ====
section
/-! DEFINITION. One step of AESC, and the placing of a command word so that the next step runs it. -/

namespace Sys2Proof.Machine

/-- One step: the next event of the total order of R57. -/
def step (s : State) : Host.Outcome State Fault Refusal := takeStep s

/-- The state with the command word `w` of `nbits` bits placed where the next step runs it (log 11). -/
def State.withFetchWord (s : State) (nbits w : Nat) : State :=
  s.placeCommand (BitVec.ofNat 32 (w % 2 ^ nbits))

end Sys2Proof.Machine
end

