-- ==== Sys2Proof/Machine/Script.lean ====
section
/-! DEFINITION. The pseudo-operations of host scripts (R68) and their exact expansions into events (R67). -/

namespace Sys2Proof.Machine

/-- `CMD m` (R68): `W32 CMD, OP(m)`. -/
def Script.cmd (i : Instr) : List Event := [.write .word cmdOffset (encode i)]

/-- `WAIT` (R68): `POLL STATUS, 0x1, 0x0`. -/
def Script.wait : List Event := [.poll 0x0018 0x1 0x0]

/-- `RUN m` (R68). -/
def Script.run (i : Instr) : List Event := Script.cmd i ++ Script.wait

/-- `CLRINT` (R68): `W32 INT_STATUS, 0x7`. -/
def Script.clrInt : List Event := [.write .word 0x001C 0x7]

/-- `LOAD base, b0 b1 ...` (R68): whole words first, then the remaining bytes one by one. R68 requires base mod 4 = 0. DESIGN
CHOICE (log 14): a base of another form is expanded alike, and an offset above 0xFFFF wraps to the window's start. -/
def Script.load (base : BitVec 16) : Bytes → List Event
  | b0 :: b1 :: b2 :: b3 :: bs => .write .word base (leWord [b0, b1, b2, b3]) :: Script.load (base + 4) bs
  | b :: bs => .write .byte base (b.setWidth 32) :: Script.load (base + 1) bs
  | [] => []

/-- The byte reads that end a `DUMP` (R68); an offset above 0xFFFF wraps (DESIGN CHOICE, log 14). -/
def Script.dumpBytes (base : BitVec 16) : Nat → List Event
  | 0 => []
  | n + 1 => .read .byte base :: Script.dumpBytes (base + 1) n

/-- The word reads that begin a `DUMP` (R68); an offset above 0xFFFF wraps (DESIGN CHOICE, log 14). -/
def Script.dumpWords (base : BitVec 16) : Nat → List Event
  | 0 => []
  | n + 1 => .read .word base :: Script.dumpWords (base + 4) n

/-- `DUMP base, n` (R68): whole words first, then the remaining bytes one by one. DESIGN CHOICE (log 14): an offset above
0xFFFF wraps to the window's start, in the bytes' base too. -/
def Script.dump (base : BitVec 16) (n : Nat) : List Event :=
  Script.dumpWords base (n / 4) ++ Script.dumpBytes (base + BitVec.ofNat 16 (4 * (n / 4))) (n % 4)

end Sys2Proof.Machine
end

