-- ==== Sys2Proof/Safety.lean ====
section
/-! DEFINITION. What counts as a safe state and a safe run: the invariants of R79 and the model's own, the states a run can
reach, and the terms in which the statements speak of a command's completion. -/

namespace Sys2Proof.Machine

/-- R79.1: KS_VALID = 1 implies KEYLEN ≠ 0b11 and SCHED = SchedImage(KEY, KEYLEN). -/
def KsInv (s : State) : Prop :=
  s.status.ksValid = true →
    ∃ nk, keyBytes s.ctrl.keyLen = some nk ∧ s.sched = schedImage (expandKey (s.key nk) nk)

/-- R79.2: what CTX_VALID = 1 implies. -/
def CtxInv (s : State) : Prop :=
  s.status.ctxValid = true →
    s.status.ksValid = true ∧
    1 ≤ s.ctrl.tagLen.toNat ∧ s.ctrl.tagLen.toNat ≤ 16 ∧
    1 ≤ s.nonceLen.toNat ∧ s.nonceLen.toNat ≤ s.cfg.maxNonce ∧
    s.aadLen.toNat ≤ s.cfg.maxAad ∧
    ∃ nk, keyBytes s.ctrl.keyLen = some nk ∧
      s.hsub = aesEncrypt s.sched (rounds nk) (zeros 16) ∧
      s.j0 = deriveJ0 s.hsub s.nonce

/-- The invariant that every step keeps. -/
structure Inv (s : State) : Prop where
  /-- The parameters meet the constraints of R8. -/
  cfgOk : s.cfg.wf = true
  /-- The memory is in canonical form. -/
  memOk : s.memWf = true
  /-- R79.1. -/
  ks : KsInv s
  /-- R79.2. -/
  ctx : CtxInv s
  /-- A pending command is no NOP (R69). -/
  pending : s.status.busy = true → s.pendingOp ≠ 0x0
  /-- Only a CBC_ENC with IVGEN = 1 whose checks have passed waits for the RNG, and only while no draw stands on the port
  (R41, R116). -/
  waiting : s.rngWait = true →
    s.status.busy = true ∧ s.pendingOp = 0x4 ∧ s.ctrl.keyLen ≠ 0b11 ∧ s.msgLen.toNat ≤ s.cfg.maxMsg ∧
    s.ctrl.ivGen = true ∧ s.rngPort = none
  /-- AUTH_OK = 1 exactly after a successful GCM_DEC (R70, 92_eei_decisions.md D29). -/
  authOk : s.status.authOk = true ↔ s.status.lastOp = 0x8 ∧ s.status.errCode = .ok
  /-- ERR_INTERNAL is never recorded (R131). -/
  noInternal : s.status.errCode ≠ .internal

/-- The states a run can reach from the reset of any instance, with any inputs at any time. -/
inductive Reachable : State → Prop where
  /-- The reset state of an instance (R147). -/
  | reset (cfg : Config) (h : cfg.wf = true) : Reachable { State.reset with cfg := cfg }
  /-- The environment chooses the events to come (R57). -/
  | inputs {s : State} (es : List Event) (h : Reachable s) : Reachable { s with events := es }
  /-- One step. -/
  | step {s t : State} (h : Reachable s) (ht : step s = .next t) : Reachable t

/-- The machine does not stop in this state. -/
def Runs (s : State) : Prop := ∃ t, step s = .next t

/-- Offset `a` is one of the first `n` bytes of array `x` (R30). -/
def inArr (x : Arr) (n a : Nat) : Prop := x.base ≤ a ∧ a < x.base + n

/-- Every byte whose offset does not satisfy `p` reads in `t` as it did in `s`. -/
def KeptOutside (s t : State) (p : Nat → Prop) : Prop := ∀ a, ¬p a → t.byteAt a = s.byteAt a

/-- What no command writes: the configuration registers, the inputs' lengths, INT_ENABLE, BUSYERR, PENDING_OP, and the
model's own fields. -/
structure KeptRegs (s t : State) : Prop where
  cfg : t.cfg = s.cfg
  ctrl : t.ctrl = s.ctrl
  intEnable : t.intEnable = s.intEnable
  busyErr : t.intStatus.busyErr = s.intStatus.busyErr
  msgLen : t.msgLen = s.msgLen
  aadLen : t.aadLen = s.aadLen
  nonceLen : t.nonceLen = s.nonceLen
  pendingOp : t.pendingOp = s.pendingOp
  resets : t.resets = s.resets
  events : t.events = s.events
  response : t.response = s.response

/-- What no host access changes: the parameters, the hidden state (R41) with the RNG port, and the reset counter that keys the
draws of R43. PENDING_OP is kept by every access but a CMD write. -/
structure KeptHidden (s t : State) : Prop where
  cfg : t.cfg = s.cfg
  pendingOp : t.pendingOp = s.pendingOp
  rngWait : t.rngWait = s.rngWait
  rngPort : t.rngPort = s.rngPort
  resets : t.resets = s.resets

/-- The words of the registers, bit by bit (R19 to R29, with the codes of R131); the reserved bits read 0. -/
structure RegisterWords (s : State) : Prop where
  id : regValue s .id = 0x41455343
  version : regValue s .version = 0x00010000
  param0 : s.cfg.wf = true →
    ((regValue s .param0).extractLsb' 0 16).toNat = s.cfg.maxMsg ∧ ((regValue s .param0).extractLsb' 16 16).toNat = s.cfg.maxAad
  param1 : s.cfg.wf = true →
    ((regValue s .param1).extractLsb' 0 9).toNat = s.cfg.maxNonce ∧ (regValue s .param1).extractLsb' 9 23 = 0
  ctrl : (regValue s .ctrl).extractLsb' 0 2 = s.ctrl.keyLen ∧ (regValue s .ctrl).getLsbD 2 = s.ctrl.ivGen ∧
    (regValue s .ctrl).getLsbD 3 = s.ctrl.tagCmp ∧ (regValue s .ctrl).extractLsb' 4 4 = 0 ∧
    (regValue s .ctrl).extractLsb' 8 5 = s.ctrl.tagLen ∧ (regValue s .ctrl).extractLsb' 13 19 = 0
  cmd : regValue s .cmd = 0
  status : (regValue s .status).getLsbD 0 = s.status.busy ∧ (regValue s .status).getLsbD 1 = s.status.ksValid ∧
    (regValue s .status).getLsbD 2 = s.status.ctxValid ∧ (regValue s .status).getLsbD 3 = s.status.authOk ∧
    (regValue s .status).extractLsb' 4 4 = 0 ∧ (regValue s .status).extractLsb' 12 4 = s.status.lastOp ∧
    (regValue s .status).extractLsb' 16 16 = 0
  errCode : (s.status.errCode, (regValue s .status).extractLsb' 8 4) ∈
    [(ErrCode.ok, (0 : BitVec 4)), (.badOp, 1), (.keyLen, 2), (.len, 3), (.pad, 4), (.noCtx, 5), (.tagLen, 6), (.nonceLen, 7),
      (.aadLen, 8), (.auth, 9), (.internal, 10)]
  intStatus : (regValue s .intStatus).getLsbD 0 = s.intStatus.done ∧ (regValue s .intStatus).getLsbD 1 = s.intStatus.err ∧
    (regValue s .intStatus).getLsbD 2 = s.intStatus.busyErr ∧ (regValue s .intStatus).extractLsb' 3 29 = 0
  intEnable : (regValue s .intEnable).getLsbD 0 = s.intEnable.done ∧ (regValue s .intEnable).getLsbD 1 = s.intEnable.err ∧
    (regValue s .intEnable).getLsbD 2 = s.intEnable.busyErr ∧ (regValue s .intEnable).extractLsb' 3 29 = 0
  msgLen : (regValue s .msgLen).extractLsb' 0 16 = s.msgLen ∧ (regValue s .msgLen).extractLsb' 16 16 = 0
  aadLen : (regValue s .aadLen).extractLsb' 0 16 = s.aadLen ∧ (regValue s .aadLen).extractLsb' 16 16 = 0
  nonceLen : (regValue s .nonceLen).extractLsb' 0 16 = s.nonceLen ∧ (regValue s .nonceLen).extractLsb' 16 16 = 0
  tagInLen : (regValue s .tagInLen).extractLsb' 0 5 = s.tagInLen ∧ (regValue s .tagInLen).extractLsb' 5 27 = 0
  outLen : (regValue s .outLen).extractLsb' 0 16 = s.outLen ∧ (regValue s .outLen).extractLsb' 16 16 = 0

/-- The next event of `s` is a host write that clears bit `i` of INT_STATUS: it writes a 1 there (R25, R136). -/
def HostClears (s : State) (i : Nat) : Prop :=
  ∃ e es a v, s.events = e :: es ∧ hostWriteOf s.cfg e = some (.word, a, v) ∧
    locate s.cfg .word a.toNat = .reg .intStatus ∧ v.getLsbD i = true

/-- The completion of the command with opcode `op` (R70): code, LASTOP, AUTH_OK, BUSY, OUT_LEN, DONE and ERR. -/
structure Completed (op : BitVec 4) (code : ErrCode) (outlen : Nat) (s t : State) : Prop where
  errCode : t.status.errCode = code
  lastOp : t.status.lastOp = op
  authOk : t.status.authOk = true ↔ op = 0x8 ∧ code = .ok
  busy : t.status.busy = false
  outLen : t.outLen.toNat = outlen
  done : t.intStatus.done = true
  err : t.intStatus.err = true ↔ s.intStatus.err = true ∨ code ≠ .ok

/-- What no command but CBC_ENC with IVGEN = 1 changes: the RNG handshake. -/
structure KeptRng (s t : State) : Prop where
  rngWait : t.rngWait = s.rngWait
  rngPort : t.rngPort = s.rngPort

/-- The failure of a command (R70, R71): the code is recorded and nothing of its results is written. CTX_VALID is not
spoken of: GCM_INIT's failure clears it. -/
structure Failed (op : BitVec 4) (code : ErrCode) (s t : State) : Prop where
  completed : Completed op code 0 s t
  regs : KeptRegs s t
  rng : KeptRng s t
  ksValid : t.status.ksValid = s.status.ksValid
  tagInLen : t.tagInLen = s.tagInLen
  mem : t.mem = s.mem

/-- The code that a command reports, by the check order of R132; `nop` completes nothing. -/
def expectedCode (s : State) : Instr → ErrCode
  | .nop => .ok
  | .keyexp => if s.ctrl.keyLen = 0b11 then .keyLen else .ok
  | .encBlock => if s.ctrl.keyLen = 0b11 then .keyLen else .ok
  | .decBlock => if s.ctrl.keyLen = 0b11 then .keyLen else .ok
  | .cbcEnc =>
    if s.ctrl.keyLen = 0b11 then .keyLen
    else if s.cfg.maxMsg < s.msgLen.toNat then .len
    else .ok
  | .cbcDec =>
    match keyBytes s.ctrl.keyLen with
    | none => .keyLen
    | some nk =>
      if s.msgLen.toNat = 0 ∨ s.msgLen.toNat % 16 ≠ 0 ∨ s.cfg.maxMsg < s.msgLen.toNat then .len
      else if unpad (cbcDecrypt (aesDecrypt (expandKey (s.key nk) nk) (rounds nk)) s.iv s.message) = none then .pad
      else .ok
  | .gcmInit =>
    if s.ctrl.keyLen = 0b11 then .keyLen
    else if s.ctrl.tagLen.toNat = 0 ∨ 16 < s.ctrl.tagLen.toNat then .tagLen
    else if s.nonceLen.toNat = 0 ∨ s.cfg.maxNonce < s.nonceLen.toNat then .nonceLen
    else if s.cfg.maxAad < s.aadLen.toNat then .aadLen
    else .ok
  | .gcmEnc =>
    if s.status.ctxValid = false then .noCtx
    else if s.cfg.maxMsg < s.msgLen.toNat then .len
    else .ok
  | .gcmDec =>
    match keyBytes s.ctrl.keyLen with
    | none => .noCtx
    | some nk =>
      if s.status.ctxValid = false then .noCtx
      else if s.cfg.maxMsg < s.msgLen.toNat then .len
      else if tagOk s.ctrl.tagCmp s.ctrl.tagLen.toNat (s.computeTag (aesEncrypt s.sched (rounds nk)) s.message)
          s.tag s.tagInLen.toNat = false then .auth
      else .ok
  | .reserved9 => .badOp
  | .reservedAB _ => .badOp
  | .reservedCF _ => .badOp

/-- The state of R147 after the reset numbered `gen` of the instance `cfg`: the registers, the six zeroed arrays, the draws
in the four buffers, the hidden state and the IRQ output. -/
structure ResetState (cfg : Config) (gen : Nat) (t : State) : Prop where
  id : regValue t .id = 0x41455343
  version : regValue t .version = 0x00010000
  param0 : regValue t .param0 = (BitVec.ofNat 32 cfg.maxAad <<< 16) ||| BitVec.ofNat 32 cfg.maxMsg
  param1 : regValue t .param1 = BitVec.ofNat 32 cfg.maxNonce
  ctrl : regValue t .ctrl = 0x00001000
  ctrlFields : t.ctrl = { keyLen := 0b00, ivGen := false, tagCmp := false, tagLen := 16 }
  status : regValue t .status = 0
  statusFields : t.status =
    { busy := false, ksValid := false, ctxValid := false, authOk := false, errCode := .ok, lastOp := 0 }
  intStatus : regValue t .intStatus = 0
  intEnable : regValue t .intEnable = 0
  lengths : t.msgLen = 0 ∧ t.aadLen = 0 ∧ t.nonceLen = 0 ∧ t.tagInLen = 0 ∧ t.outLen = 0
  zeroed : ∀ x ∈ [Arr.key, Arr.iv, Arr.tag, Arr.hsub, Arr.j0, Arr.sched], ∀ i < x.size cfg,
    t.byteAt (x.base + i) = 0x00
  drawn : ∀ x ∈ [Arr.nonceBuf, Arr.aadBuf, Arr.inBuf, Arr.outBuf], ∀ i < x.size cfg,
    t.byteAt (x.base + i) = Config.resetDraw gen (x.base + i)
  hidden : t.pendingOp = 0 ∧ t.rngWait = false
  irq : t.irq = false

end Sys2Proof.Machine
end

