-- ==== Sys2Proof/Certificates/Slice0/Obligations.lean ====
section
/-! DEFINITION. The statements for the provers. Each docstring names the rule of spec/ it formalises. -/

open Sys2Proof Sys2Proof.Machine

/-! ### Encoding -/

/-- R64, R62: command words written out from the table decode to their commands; bits 31:4 are ignored. -/
def Obligations.CommandWordsDecode : Prop :=
  decode 0x00000000 = .nop ∧ decode 0x00000001 = .keyexp ∧ decode 0x00000002 = .encBlock ∧
  decode 0x00000003 = .decBlock ∧ decode 0x00000004 = .cbcEnc ∧ decode 0x00000005 = .cbcDec ∧
  decode 0x00000006 = .gcmInit ∧ decode 0x00000007 = .gcmEnc ∧ decode 0x00000008 = .gcmDec ∧
  decode 0x00000009 = .reserved9 ∧ decode 0x0000000B = .reservedAB 0xB ∧ decode 0x0000000F = .reservedCF 0xF ∧
  decode 0xFFFFFFF1 = .keyexp

/-- R62: a decoder reads OP = word[3:0] and nothing else; and it reads all of OP. -/
def Obligations.DecodeReadsExactlyOp : Prop :=
  ∀ w w' : Word, decode w = decode w' ↔ w.extractLsb' 0 4 = w'.extractLsb' 0 4

/-- Decode and encode agree: a well-formed command's word decodes to it, whatever its ignored bits are; what is decoded is
well-formed; and no two well-formed commands share an opcode. -/
def Obligations.DecodeEncodeAgree : Prop :=
  (∀ i : Instr, i.wellFormed = true → ∀ hi : BitVec 28, decode (hi ++ (encode i).extractLsb' 0 4) = i) ∧
  (∀ w : Word, (decode w).wellFormed = true ∧ opcode (decode w) = w.extractLsb' 0 4) ∧
  (∀ i j : Instr, i.wellFormed = true → j.wellFormed = true → encode i = encode j → i = j)

/-! ### Reset -/

/-- R147, R79: the state after reset, of every instance (the form of an instance is the model's, log 3). It meets the invariants
of R79, since both flags are 0. The four buffers hold the free values that the model's reset counter keys (log 2), whatever
the counter's value `gen` is; `State.reset` has 0. -/
def Obligations.ResetLeavesTheResetState : Prop :=
  ∀ (cfg : Config) (gen : Nat),
    ResetState cfg gen { State.reset with cfg := cfg, resets := gen } ∧
    KsInv { State.reset with cfg := cfg, resets := gen } ∧ CtxInv { State.reset with cfg := cfg, resets := gen }

/-- R146, R148: reset in any state, a command running or not, gives the state of R147 in one step. That each reset takes
fresh draws, that the draw on the RNG port stays and that the later events go on are the model's (logs 1, 2 and 4). -/
def Obligations.ResetEventAbandonsTheCommand : Prop :=
  ∀ (s : State) (es : List Event), s.events = .reset :: es →
    ∃ t, step s = .next t ∧ ResetState s.cfg (s.resets + 1) t ∧
      t.cfg = s.cfg ∧ t.rngPort = s.rngPort ∧ t.events = es

/-- The invariant holds at reset. -/
def Obligations.ResetMeetsTheInvariant : Prop :=
  ∀ cfg : Config, cfg.wf = true → Inv { State.reset with cfg := cfg }

/-! ### Invariants that every step keeps -/

/-- Every step keeps the invariant `Inv`: R79's and the model's own (the memory's form, the RNG handshake of log 4), from every
state that meets it. -/
def Obligations.StepKeepsTheInvariant : Prop :=
  ∀ s t : State, Inv s → step s = .next t → Inv t

/-- R79: its invariants hold in every state that a run can reach from reset, with any inputs (as event lists, log 1). -/
def Obligations.ReachableStatesMeetR79 : Prop :=
  ∀ s : State, Reachable s → KsInv s ∧ CtxInv s

/-- Every step keeps the memory in canonical form, from every state whose memory is. -/
def Obligations.StepKeepsTheMemoryForm : Prop :=
  ∀ s t : State, s.memWf = true → step s = .next t → t.memWf = true

/-- No event stops the machine (R51, R71: a bus error changes no state, a failed command leaves the engine idle). -/
def Obligations.NoStepStops : Prop :=
  ∀ s : State, Inv s → Runs s

/-- R21: no step changes the instance's parameters, so PARAM0 and PARAM1 are constants. -/
def Obligations.ParametersAreConstant : Prop :=
  ∀ s t : State, step s = .next t →
    regValue t .param0 = regValue s .param0 ∧ regValue t .param1 = regValue s .param1 ∧ t.cfg = s.cfg

/-! ### Steps and commands -/

/-- R70, R72: when the engine has its turn (its event comes, or none is left: the model's form, log 1) and a command is pending, the step is exec of the
command that PENDING_OP decodes to, at the state without the event; while BUSY = 0 the engine changes nothing. -/
def Obligations.EngineStepRunsThePendingCommand : Prop :=
  ∀ (s : State) (es : List Event), (s.events = .engine :: es ∨ s.events = [] ∧ es = []) →
    (s.status.busy = true → ∀ i : Instr, i.wellFormed = true → opcode i = s.pendingOp →
      step s = exec i { s with events := es }) ∧
    (s.status.busy = false → step s = .next { s with events := es })

/-- R69: a CMD write while BUSY = 0 is the issue event. It sets PENDING_OP and BUSY and nothing else (the events and the bus's
answer are the model's own); a NOP is run at once by exec. -/
def Obligations.CmdWriteIssuesTheCommand : Prop :=
  ∀ (s : State) (es : List Event) (v : Word), s.events = .write .word 0x0014 v :: es →
    (s.status.busy = false → v.extractLsb' 0 4 = 0x0 →
      step s = exec .nop { s with events := es, response := some .okay }) ∧
    (s.status.busy = false → v.extractLsb' 0 4 ≠ 0x0 →
      step s = .next { s with
        events := es
        response := some .okay
        pendingOp := v.extractLsb' 0 4
        status := { s.status with busy := true } }) ∧
    (s.status.busy = true →
      step s = .next { s with
        events := es
        response := some .okay
        intStatus := { s.intStatus with busyErr := true } })

/-- R74: NOP changes nothing, BUSY included; written while BUSY = 1 it is dropped and sets BUSYERR. -/
def Obligations.NopChangesNothing : Prop :=
  (∀ s : State, exec .nop s = .next s) ∧
  (∀ (s : State) (es : List Event) (v : Word), s.events = .write .word 0x0014 v :: es → v.extractLsb' 0 4 = 0x0 →
    ∃ t, step s = .next { t with events := es, response := some .okay } ∧
      (s.status.busy = false → t = s) ∧
      (s.status.busy = true → t = { s with intStatus := { s.intStatus with busyErr := true } }))

/-- R75: a reserved opcode, 0x9 to 0xF, is issued as any command is; it completes with ERR_BADOP and changes nothing else; KS_VALID
and CTX_VALID keep their values. -/
def Obligations.ReservedOpcodesFailWithBadOp : Prop :=
  (∀ (s : State) (i : Instr),
    (i = .reserved9 ∨ (∃ op, i = .reservedAB op ∧ i.wellFormed = true) ∨ (∃ op, i = .reservedCF op ∧ i.wellFormed = true)) →
    0x9 ≤ (opcode i).toNat ∧
    ∃ t, exec i s = .next t ∧ Failed (opcode i) .badOp s t ∧ t.status.ctxValid = s.status.ctxValid) ∧
  (∀ (s : State) (es : List Event) (v : Word), s.events = .write .word 0x0014 v :: es → s.status.busy = false →
    0x9 ≤ (v.extractLsb' 0 4).toNat →
    step s = .next { s with
      events := es
      response := some .okay
      pendingOp := v.extractLsb' 0 4
      status := { s.status with busy := true } } ∧
    (decode v = .reserved9 ∨ decode v = .reservedAB (v.extractLsb' 0 4) ∨ decode v = .reservedCF (v.extractLsb' 0 4)))

/-- R96: KEYEXP writes SCHED and KS_VALID, with OUT_LEN the schedule's length; or it fails with ERR_KEYLEN. -/
def Obligations.KeyexpExpandsTheKey : Prop :=
  opcode .keyexp = 0x1 ∧ ∀ s : State, s.memWf = true →
    (∀ nk, keyBytes s.ctrl.keyLen = some nk →
      ∃ t, exec .keyexp s = .next t ∧
        Completed 0x1 .ok (schedLen nk) s t ∧
        t.sched = expandKey (s.key nk) nk ++ zeros (240 - schedLen nk) ∧
        t.status.ksValid = true ∧ t.status.ctxValid = s.status.ctxValid ∧
        KeptRegs s t ∧ KeptRng s t ∧ t.tagInLen = s.tagInLen ∧
        KeptOutside s t (inArr .sched 240)) ∧
    (s.ctrl.keyLen = 0b11 →
      ∃ t, exec .keyexp s = .next t ∧ Failed 0x1 .keyLen s t ∧ t.status.ctxValid = s.status.ctxValid)

/-- R110: ENC_BLOCK writes the encryption of IN_BUF[0..16) to OUT_BUF[0..16), SCHED and KS_VALID; or it fails with
ERR_KEYLEN. -/
def Obligations.EncBlockEncryptsTheBlock : Prop :=
  opcode .encBlock = 0x2 ∧ ∀ s : State, s.memWf = true →
    (∀ nk, keyBytes s.ctrl.keyLen = some nk →
      ∃ t, exec .encBlock s = .next t ∧
        Completed 0x2 .ok 16 s t ∧
        t.output 16 = aesEncrypt (expandKey (s.key nk) nk) (rounds nk) (s.input 16) ∧
        t.sched = schedImage (expandKey (s.key nk) nk) ∧
        t.status.ksValid = true ∧ t.status.ctxValid = s.status.ctxValid ∧
        KeptRegs s t ∧ KeptRng s t ∧ t.tagInLen = s.tagInLen ∧
        KeptOutside s t (fun a => inArr .sched 240 a ∨ inArr .outBuf 16 a)) ∧
    (s.ctrl.keyLen = 0b11 →
      ∃ t, exec .encBlock s = .next t ∧ Failed 0x2 .keyLen s t ∧ t.status.ctxValid = s.status.ctxValid)

/-- R111: DEC_BLOCK writes the decryption of IN_BUF[0..16) to OUT_BUF[0..16), SCHED and KS_VALID; or it fails with
ERR_KEYLEN. -/
def Obligations.DecBlockDecryptsTheBlock : Prop :=
  opcode .decBlock = 0x3 ∧ ∀ s : State, s.memWf = true →
    (∀ nk, keyBytes s.ctrl.keyLen = some nk →
      ∃ t, exec .decBlock s = .next t ∧
        Completed 0x3 .ok 16 s t ∧
        t.output 16 = aesDecrypt (expandKey (s.key nk) nk) (rounds nk) (s.input 16) ∧
        t.sched = schedImage (expandKey (s.key nk) nk) ∧
        t.status.ksValid = true ∧ t.status.ctxValid = s.status.ctxValid ∧
        KeptRegs s t ∧ KeptRng s t ∧ t.tagInLen = s.tagInLen ∧
        KeptOutside s t (fun a => inArr .sched 240 a ∨ inArr .outBuf 16 a)) ∧
    (s.ctrl.keyLen = 0b11 →
      ∃ t, exec .decBlock s = .next t ∧ Failed 0x3 .keyLen s t ∧ t.status.ctxValid = s.status.ctxValid)

/-- R109: ENC_BLOCK and DEC_BLOCK ignore MSG_LEN: with another value there they do the same and leave it as it is. -/
def Obligations.BlockCommandsIgnoreMsgLen : Prop :=
  ∀ (s t : State) (n : BitVec 16) (i : Instr), (i = .encBlock ∨ i = .decBlock) →
    exec i s = .next t → exec i { s with msgLen := n } = .next { t with msgLen := n }

/-- R116 with IVGEN = 0: CBC_ENC writes the CBC encryption of the padded message under the register IV; its failures are
ERR_KEYLEN, then ERR_LEN, and leave IV unchanged. -/
def Obligations.CbcEncEncryptsUnderTheIvRegister : Prop :=
  ∀ s : State, s.memWf = true → s.cfg.wf = true →
    (∀ nk, keyBytes s.ctrl.keyLen = some nk → s.msgLen.toNat ≤ s.cfg.maxMsg → s.ctrl.ivGen = false →
      ∃ t, exec .cbcEnc s = .next t ∧
        Completed 0x4 .ok (s.msgLen.toNat + 16 - s.msgLen.toNat % 16) s t ∧
        t.output (s.msgLen.toNat + 16 - s.msgLen.toNat % 16) =
          cbcEncrypt (aesEncrypt (expandKey (s.key nk) nk) (rounds nk)) s.iv (pad s.message) ∧
        t.sched = schedImage (expandKey (s.key nk) nk) ∧ t.iv = s.iv ∧
        t.status.ksValid = true ∧ t.status.ctxValid = s.status.ctxValid ∧
        KeptRegs s t ∧ KeptRng s t ∧ t.tagInLen = s.tagInLen ∧
        KeptOutside s t (fun a => inArr .sched 240 a ∨
          inArr .outBuf (s.msgLen.toNat + 16 - s.msgLen.toNat % 16) a)) ∧
    (s.ctrl.keyLen = 0b11 →
      ∃ t, exec .cbcEnc s = .next t ∧ Failed 0x4 .keyLen s t ∧ t.status.ctxValid = s.status.ctxValid) ∧
    (s.ctrl.keyLen ≠ 0b11 → s.cfg.maxMsg < s.msgLen.toNat →
      ∃ t, exec .cbcEnc s = .next t ∧ Failed 0x4 .len s t ∧ t.status.ctxValid = s.status.ctxValid)

/-- R116 with IVGEN = 1, with the draw standing on the RNG port (the port is the model's, log 4): CBC_ENC encrypts under the
draw, writes it to IV and takes it off the port. -/
def Obligations.CbcEncTakesTheDraw : Prop :=
  ∀ (s : State) (nk : Nat) (draw : Vector Byte 16), s.memWf = true → s.cfg.wf = true →
    keyBytes s.ctrl.keyLen = some nk → s.msgLen.toNat ≤ s.cfg.maxMsg → s.ctrl.ivGen = true →
    s.rngPort = some draw →
    ∃ t, exec .cbcEnc s = .next t ∧
      Completed 0x4 .ok (s.msgLen.toNat + 16 - s.msgLen.toNat % 16) s t ∧
      t.output (s.msgLen.toNat + 16 - s.msgLen.toNat % 16) =
        cbcEncrypt (aesEncrypt (expandKey (s.key nk) nk) (rounds nk)) draw.toList (pad s.message) ∧
      t.sched = schedImage (expandKey (s.key nk) nk) ∧ t.iv = draw.toList ∧
      t.status.ksValid = true ∧ t.status.ctxValid = s.status.ctxValid ∧
      KeptRegs s t ∧ t.rngPort = none ∧ t.rngWait = false ∧ t.tagInLen = s.tagInLen ∧
      KeptOutside s t (fun a => inArr .sched 240 a ∨ inArr .iv 16 a ∨
        inArr .outBuf (s.msgLen.toNat + 16 - s.msgLen.toNat % 16) a)

/-- R156, R41: while no draw has come (the port is the model's, log 4) a CBC_ENC with IVGEN = 1 whose checks pass stays BUSY,
and only RNG_WAIT shows it; the RNG's delivery ends the wait, and the engine's next turn then completes the command. -/
def Obligations.CbcEncWaitsForTheDraw : Prop :=
  ∀ s : State, s.ctrl.keyLen ≠ 0b11 → s.msgLen.toNat ≤ s.cfg.maxMsg → s.ctrl.ivGen = true → s.rngPort = none →
    exec .cbcEnc s = .next { s with rngWait := true } ∧
    (s.status.busy = true → s.pendingOp = 0x4 →
      ∀ (draw : Vector Byte 16) (es : List Event), s.events = .engine :: .rng draw :: .engine :: es →
        ∃ t u v, step s = .next t ∧ t.status = s.status ∧ t.rngWait = true ∧ t.mem = s.mem ∧
          step t = .next u ∧ u.status = s.status ∧ u.rngWait = false ∧ u.mem = s.mem ∧
          step u = .next v ∧ v.status.busy = false ∧ v.status.errCode = .ok ∧ v.status.lastOp = 0x4)

/-- R117: CBC_DEC writes the unpadded decryption to OUT_BUF; its failures are ERR_KEYLEN, then ERR_LEN, then ERR_PAD. -/
def Obligations.CbcDecDecryptsAndUnpads : Prop :=
  opcode .cbcDec = 0x5 ∧ ∀ s : State, s.memWf = true → s.cfg.wf = true →
    (∀ nk, keyBytes s.ctrl.keyLen = some nk →
      s.msgLen.toNat ≠ 0 → s.msgLen.toNat % 16 = 0 → s.msgLen.toNat ≤ s.cfg.maxMsg →
      (∀ m, unpad (cbcDecrypt (aesDecrypt (expandKey (s.key nk) nk) (rounds nk)) s.iv s.message) = some m →
        ∃ t, exec .cbcDec s = .next t ∧
          Completed 0x5 .ok m.length s t ∧ t.output m.length = m ∧
          t.sched = schedImage (expandKey (s.key nk) nk) ∧
          t.status.ksValid = true ∧ t.status.ctxValid = s.status.ctxValid ∧
          KeptRegs s t ∧ KeptRng s t ∧ t.tagInLen = s.tagInLen ∧
          KeptOutside s t (fun a => inArr .sched 240 a ∨ inArr .outBuf m.length a)) ∧
      (unpad (cbcDecrypt (aesDecrypt (expandKey (s.key nk) nk) (rounds nk)) s.iv s.message) = none →
        ∃ t, exec .cbcDec s = .next t ∧ Failed 0x5 .pad s t ∧ t.status.ctxValid = s.status.ctxValid)) ∧
    (s.ctrl.keyLen = 0b11 →
      ∃ t, exec .cbcDec s = .next t ∧ Failed 0x5 .keyLen s t ∧ t.status.ctxValid = s.status.ctxValid) ∧
    (s.ctrl.keyLen ≠ 0b11 →
      (s.msgLen.toNat = 0 ∨ s.msgLen.toNat % 16 ≠ 0 ∨ s.cfg.maxMsg < s.msgLen.toNat) →
      ∃ t, exec .cbcDec s = .next t ∧ Failed 0x5 .len s t ∧ t.status.ctxValid = s.status.ctxValid)

/-- R126: GCM_INIT builds the context from the current registers; its failures are ERR_KEYLEN, ERR_TAGLEN, ERR_NONCELEN and
ERR_AADLEN, in this order, and clear CTX_VALID. -/
def Obligations.GcmInitBuildsTheContext : Prop :=
  opcode .gcmInit = 0x6 ∧ ∀ s : State, s.memWf = true →
    (∀ nk, keyBytes s.ctrl.keyLen = some nk →
      1 ≤ s.ctrl.tagLen.toNat → s.ctrl.tagLen.toNat ≤ 16 →
      1 ≤ s.nonceLen.toNat → s.nonceLen.toNat ≤ s.cfg.maxNonce → s.aadLen.toNat ≤ s.cfg.maxAad →
      ∃ t, exec .gcmInit s = .next t ∧
        Completed 0x6 .ok 0 s t ∧
        t.hsub = aesEncrypt (expandKey (s.key nk) nk) (rounds nk) (zeros 16) ∧
        t.j0 = deriveJ0 (aesEncrypt (expandKey (s.key nk) nk) (rounds nk) (zeros 16)) s.nonce ∧
        t.sched = schedImage (expandKey (s.key nk) nk) ∧
        t.status.ksValid = true ∧ t.status.ctxValid = true ∧
        KeptRegs s t ∧ KeptRng s t ∧ t.tagInLen = s.tagInLen ∧
        KeptOutside s t (fun a => inArr .sched 240 a ∨ inArr .hsub 16 a ∨ inArr .j0 16 a)) ∧
    (∀ code, (s.ctrl.keyLen = 0b11 ∧ code = ErrCode.keyLen) ∨
        (s.ctrl.keyLen ≠ 0b11 ∧ ((s.ctrl.tagLen.toNat < 1 ∨ 16 < s.ctrl.tagLen.toNat) ∧ code = .tagLen ∨
          1 ≤ s.ctrl.tagLen.toNat ∧ s.ctrl.tagLen.toNat ≤ 16 ∧
            ((s.nonceLen.toNat = 0 ∨ s.cfg.maxNonce < s.nonceLen.toNat) ∧ code = .nonceLen ∨
             1 ≤ s.nonceLen.toNat ∧ s.nonceLen.toNat ≤ s.cfg.maxNonce ∧
              s.cfg.maxAad < s.aadLen.toNat ∧ code = .aadLen))) →
      ∃ t, exec .gcmInit s = .next t ∧ Failed 0x6 code s t ∧ t.status.ctxValid = false)

/-- R127: GCM_ENC writes the ciphertext, the tag with zeros after it, and TAG_IN_LEN; its failures are ERR_NOCTX, then
ERR_LEN. KEYLEN ≠ 0b11 is what R79 gives every state with CTX_VALID = 1. -/
def Obligations.GcmEncEncryptsAndTags : Prop :=
  opcode .gcmEnc = 0x7 ∧ ∀ s : State, s.memWf = true →
    (∀ nk, keyBytes s.ctrl.keyLen = some nk → s.ctrl.tagLen.toNat ≤ 16 →
      s.status.ctxValid = true → s.msgLen.toNat ≤ s.cfg.maxMsg →
      ∃ t c, exec .gcmEnc s = .next t ∧
        c = gctr (aesEncrypt s.sched (rounds nk)) (inc32 s.j0) s.message ∧
        Completed 0x7 .ok s.msgLen.toNat s t ∧
        t.output s.msgLen.toNat = c ∧
        t.tag = computeTag (aesEncrypt s.sched (rounds nk)) s.hsub s.j0 s.aad c s.ctrl.tagLen.toNat ++
          zeros (16 - s.ctrl.tagLen.toNat) ∧
        t.tagInLen = s.ctrl.tagLen ∧
        t.status.ksValid = s.status.ksValid ∧ t.status.ctxValid = true ∧
        KeptRegs s t ∧ KeptRng s t ∧
        KeptOutside s t (fun a => inArr .outBuf s.msgLen.toNat a ∨ inArr .tag 16 a)) ∧
    (s.status.ctxValid = false →
      ∃ t, exec .gcmEnc s = .next t ∧ Failed 0x7 .noCtx s t ∧ t.status.ctxValid = false) ∧
    (s.status.ctxValid = true → s.cfg.maxMsg < s.msgLen.toNat →
      ∃ t, exec .gcmEnc s = .next t ∧ Failed 0x7 .len s t ∧ t.status.ctxValid = true)

/-- R128: GCM_DEC checks the tag of the ciphertext and only then decrypts; its failures are ERR_NOCTX, ERR_LEN and ERR_AUTH.
KEYLEN ≠ 0b11 is what R79 gives every state with CTX_VALID = 1. -/
def Obligations.GcmDecChecksTheTagThenDecrypts : Prop :=
  opcode .gcmDec = 0x8 ∧ ∀ s : State, s.memWf = true →
    (∀ nk, keyBytes s.ctrl.keyLen = some nk → s.status.ctxValid = true → s.msgLen.toNat ≤ s.cfg.maxMsg →
      (tagOk s.ctrl.tagCmp s.ctrl.tagLen.toNat
          (computeTag (aesEncrypt s.sched (rounds nk)) s.hsub s.j0 s.aad s.message s.ctrl.tagLen.toNat)
          s.tag s.tagInLen.toNat = true →
        ∃ t, exec .gcmDec s = .next t ∧
          Completed 0x8 .ok s.msgLen.toNat s t ∧ t.status.authOk = true ∧
          t.output s.msgLen.toNat = gctr (aesEncrypt s.sched (rounds nk)) (inc32 s.j0) s.message ∧
          t.status.ksValid = s.status.ksValid ∧ t.status.ctxValid = true ∧
          KeptRegs s t ∧ KeptRng s t ∧ t.tagInLen = s.tagInLen ∧
          KeptOutside s t (inArr .outBuf s.msgLen.toNat)) ∧
      (tagOk s.ctrl.tagCmp s.ctrl.tagLen.toNat
          (computeTag (aesEncrypt s.sched (rounds nk)) s.hsub s.j0 s.aad s.message s.ctrl.tagLen.toNat)
          s.tag s.tagInLen.toNat = false →
        ∃ t, exec .gcmDec s = .next t ∧ Failed 0x8 .auth s t ∧ t.status.ctxValid = true)) ∧
    (s.status.ctxValid = false →
      ∃ t, exec .gcmDec s = .next t ∧ Failed 0x8 .noCtx s t ∧ t.status.ctxValid = false) ∧
    (s.status.ctxValid = true → s.cfg.maxMsg < s.msgLen.toNat →
      ∃ t, exec .gcmDec s = .next t ∧ Failed 0x8 .len s t ∧ t.status.ctxValid = true)

/-! ### Whole-machine rules of commands -/

/-- R132, R131: every command but NOP reports exactly the code that its check order gives; only a CBC_ENC that waits for its
draw (R70, R156) reports nothing yet: its engine turn sets RNG_WAIT, which is the model's form of the wait (log 4). -/
def Obligations.CommandsReportTheFirstFailingCheck : Prop :=
  ∀ (s : State) (i : Instr), Inv s → i.wellFormed = true → i ≠ .nop →
    (∃ t, exec i s = .next t ∧ t.status.busy = false ∧ t.status.lastOp = opcode i ∧
      t.status.errCode = expectedCode s i) ∨
    (i = .cbcEnc ∧ s.ctrl.ivGen = true ∧ s.rngPort = none ∧ exec i s = .next { s with rngWait := true })

/-- R71: a command that fails writes none of its results; OUT_LEN = 0, AUTH_OK = 0, ERR is set; a failed GCM_INIT, and no other
command, clears CTX_VALID. -/
def Obligations.FailedCommandsWriteNoResult : Prop :=
  ∀ (s t : State) (i : Instr), s.status.busy = true → i ≠ .nop → exec i s = .next t →
    t.status.busy = false → t.status.errCode ≠ .ok →
    t.mem = s.mem ∧ t.status.ksValid = s.status.ksValid ∧ t.tagInLen = s.tagInLen ∧ t.rngPort = s.rngPort ∧
    t.outLen = 0 ∧ t.status.authOk = false ∧ t.intStatus.err = true ∧ t.intStatus.done = true ∧
    (i = .gcmInit → t.status.ctxValid = false) ∧
    (i ≠ .gcmInit → t.status.ctxValid = s.status.ctxValid)

/-- Frame of all commands: none writes a configuration or length register, INT_ENABLE, BUSYERR, PENDING_OP, KEY, NONCE_BUF,
AAD_BUF or IN_BUF (R31, R37, R38, R39); IV only CBC_ENC with IVGEN = 1 (R32); TAG and TAG_IN_LEN only GCM_ENC (R33, R28); HSUB and
J0 only GCM_INIT (R34, R35). -/
def Obligations.CommandsWriteOnlyTheirResults : Prop :=
  ∀ (s t : State) (i : Instr), s.memWf = true → s.cfg.wf = true → exec i s = .next t →
    KeptRegs s t ∧
    (∀ x ∈ [Arr.key, Arr.nonceBuf, Arr.aadBuf, Arr.inBuf], ∀ a, inArr x (x.size s.cfg) a → t.byteAt a = s.byteAt a) ∧
    (i ≠ .cbcEnc ∨ s.ctrl.ivGen = false → t.iv = s.iv ∧ KeptRng s t) ∧
    (i ≠ .gcmEnc → t.tag = s.tag ∧ t.tagInLen = s.tagInLen) ∧
    (i ≠ .gcmInit → t.hsub = s.hsub ∧ t.j0 = s.j0)

/-- R42: no command reads KS_VALID, AUTH_OK, DONE, ERR or BUSYERR: with other values there every command but NOP takes the same
way to the same results. -/
def Obligations.CommandsReadNoHostFlag : Prop :=
  ∀ (s s' t : State) (i : Instr), i ≠ .nop →
    s' = { s with
      status := { s.status with ksValid := s'.status.ksValid, authOk := s'.status.authOk }
      intStatus := s'.intStatus } →
    exec i s = .next t → t.status.busy = false → s.status.busy = true →
    ∃ t', exec i s' = .next t' ∧ t'.mem = t.mem ∧ t'.outLen = t.outLen ∧
      t'.status.errCode = t.status.errCode ∧ t'.status.lastOp = t.status.lastOp ∧
      t'.status.ctxValid = t.status.ctxValid ∧ t'.status.authOk = t.status.authOk ∧
      t'.status.busy = false ∧ t'.tagInLen = t.tagInLen ∧ t'.rngPort = t.rngPort

/-! ### The bus -/

/-- R49, R77: what a legal read returns, idle and busy; and, bit by bit, the word of every register (R19 to R29). -/
def Obligations.ReadsReturnTheStoredValue : Prop :=
  ∀ (s : State) (a : BitVec 16),
    RegisterWords s ∧
    (∀ r, locate s.cfg .word a.toNat = .reg r →
      memRead s .word a =
        .ok (if s.status.busy = true ∧ ¬ r ∈ [Reg.id, Reg.version, Reg.param0, Reg.param1, Reg.status, Reg.intStatus, Reg.intEnable]
          then 0 else regValue s r)) ∧
    (∀ n x, locate s.cfg n a.toNat = .arr x → s.status.busy = true → memRead s n a = .ok 0) ∧
    (∀ x, locate s.cfg .byte a.toNat = .arr x → s.status.busy = false →
      memRead s .byte a = .ok ((s.byteAt a.toNat).setWidth 32)) ∧
    (∀ x, locate s.cfg .half a.toNat = .arr x → s.status.busy = false →
      memRead s .half a = .ok ((s.byteAt a.toNat).setWidth 32 + (s.byteAt (a.toNat + 1)).setWidth 32 <<< 8)) ∧
    (∀ x, locate s.cfg .word a.toNat = .arr x → s.status.busy = false →
      memRead s .word a = .ok ((s.byteAt a.toNat).setWidth 32 + (s.byteAt (a.toNat + 1)).setWidth 32 <<< 8 +
        (s.byteAt (a.toNat + 2)).setWidth 32 <<< 16 + (s.byteAt (a.toNat + 3)).setWidth 32 <<< 24))

/-- R53: a 2-byte read at an array offset that is a multiple of 4 is the low half of the 4-byte read there. -/
def Obligations.HalfReadIsTheLowHalf : Prop :=
  ∀ (s : State) (a : BitVec 16) (x : Arr) (v : Word), a.toNat % 4 = 0 → locate s.cfg .word a.toNat = .arr x →
    memRead s .word a = .ok v → memRead s .half a = .ok (v &&& 0x0000FFFF)

/-- R55: a read changes no state; only the bus's answer (the model's own, log 5) shows what MemRead(a, n) gives. The same of
each read of a POLL (R67): it ends the POLL when the masked value is the wanted one, and on a bus error; otherwise the engine
has its turn and the POLL reads again (the model's form, log 7). -/
def Obligations.ReadsHaveNoSideEffect : Prop :=
  (∀ (s : State) (n : Size) (a : BitVec 16) (es : List Event), s.events = .read n a :: es →
    step s = .next { s with
      events := es
      response := some (match memRead s n a with
        | .ok v => .data v
        | .error f => .error f) }) ∧
  (∀ (s : State) (a : BitVec 16) (mask val : Word) (es : List Event), s.events = .poll a mask val :: es →
    (∀ v, memRead s .word a = .ok v → v &&& mask = val →
      step s = .next { s with events := es, response := some (.data v) }) ∧
    (∀ v, memRead s .word a = .ok v → v &&& mask ≠ val →
      step s = .next { s with events := .engine :: .poll a mask val :: es, response := some (.data v) }) ∧
    (∀ f, memRead s .word a = .error f →
      step s = .next { s with events := es, response := some (.error f) }))

/-- R77: while a command runs no read can learn anything of the keys, data or results: two busy states that agree on the
parameters, STATUS and the interrupt registers answer every read alike. -/
def Obligations.BusyReadsRevealNothing : Prop :=
  ∀ (s s' : State) (n : Size) (a : BitVec 16),
    s.status.busy = true → s'.status = s.status → s'.cfg = s.cfg →
    s'.intStatus = s.intStatus → s'.intEnable = s.intEnable →
    memRead s n a = memRead s' n a

/-- R46, with the maps of R18 and R30: what a legal access reaches. A register only by a 4-byte access at its own offset; an
array by every naturally aligned access at one of its offsets, which then lies in that array whole. R44: an access at the bus
target port is the access at its offset in the window of 65536 offsets at AESC_BASE; one outside it does not reach AESC (log 8). -/
def Obligations.LegalAccessesReachOneLocation : Prop :=
  (∀ (cfg : Config) (n : Size) (a : Nat) (r : Reg), locate cfg n a = .reg r ↔
    n = .word ∧ (a, r) ∈ [(0x000, Reg.id), (0x004, .version), (0x008, .param0), (0x00C, .param1), (0x010, .ctrl), (0x014, .cmd),
      (0x018, .status), (0x01C, .intStatus), (0x020, .intEnable), (0x024, .msgLen), (0x028, .aadLen), (0x02C, .nonceLen),
      (0x030, .tagInLen), (0x034, .outLen)]) ∧
  (∀ (cfg : Config) (n : Size) (a : Nat) (x : Arr), cfg.wf = true →
    (locate cfg n a = .arr x ↔ a % Size.bytes n = 0 ∧ inArr x (x.size cfg) a) ∧
    (locate cfg n a = .arr x → inArr x (x.size cfg) (a + (Size.bytes n - 1)))) ∧
  (∀ (s : State) (n : Size) (addr : Nat) (v : Word) (es : List Event),
    (∀ a : BitVec 16, addr = s.cfg.base + a.toNat →
      step { s with events := .busRead n addr :: es } = step { s with events := .read n a :: es } ∧
      step { s with events := .busWrite n addr v :: es } = step { s with events := .write n a v :: es }) ∧
    ((addr < s.cfg.base ∨ s.cfg.base + 0x10000 ≤ addr) →
      step { s with events := .busRead n addr :: es } = .next { s with events := es } ∧
      step { s with events := .busWrite n addr v :: es } = .next { s with events := es }))

/-- R46, R47: an access of the wrong width, a misaligned one, or one at a reserved offset is a bus error, and R51: it changes no
state, whether BUSY = 1 or not. -/
def Obligations.IllegalAccessIsABusError : Prop :=
  ∀ (s : State) (n : Size) (a : BitVec 16) (v : Word) (es : List Event),
    (a.toNat < 0x100 ∧ (n ≠ .word ∨ a.toNat % 4 ≠ 0 ∨ 0x38 ≤ a.toNat) ∨
     a.toNat % Size.bytes n ≠ 0 ∨
     0x100 ≤ a.toNat ∧ ∀ x : Arr, ¬ inArr x (x.size s.cfg) a.toNat) →
    (s.events = .read n a :: es ∨ s.events = .write n a v :: es) →
    step s = .next { s with events := es, response := some (.error (.busError a)) }

/-- R48, R51: a write of a read-only register or array is a bus error and changes no state; a read of CMD, the only write-only
location, gives 0 with no error. -/
def Obligations.ReadOnlyWriteIsABusError : Prop :=
  (∀ s : State, memRead s .word 0x0014 = .ok 0) ∧
  ∀ (s : State) (n : Size) (a : BitVec 16) (v : Word) (es : List Event),
    s.events = .write n a v :: es →
    ((∃ r ∈ [Reg.id, Reg.version, Reg.param0, Reg.param1, Reg.status, Reg.outLen], locate s.cfg n a.toNat = .reg r) ∨
     (∃ x ∈ [Arr.hsub, Arr.j0, Arr.sched, Arr.outBuf], locate s.cfg n a.toNat = .arr x)) →
    step s = .next { s with events := es, response := some (.error (.busError a)) }

/-- R48, R24: no host write, legal or not, changes what only the engine writes: OUT_LEN, HSUB, J0, SCHED, OUT_BUF, AUTH_OK, ERRCODE
and LASTOP; nor does it set a validity flag or clear BUSY. -/
def Obligations.HostWritesKeepTheResults : Prop :=
  ∀ (s t : State) (n : Size) (a : BitVec 16) (v : Word) (es : List Event), s.memWf = true → s.cfg.wf = true →
    s.events = .write n a v :: es → step s = .next t →
    t.outLen = s.outLen ∧
    (∀ x ∈ [Arr.hsub, Arr.j0, Arr.sched, Arr.outBuf], ∀ b, inArr x (x.size s.cfg) b → t.byteAt b = s.byteAt b) ∧
    t.status.authOk = s.status.authOk ∧ t.status.errCode = s.status.errCode ∧ t.status.lastOp = s.status.lastOp ∧
    (t.status.ksValid = true → s.status.ksValid = true) ∧ (t.status.ctxValid = true → s.status.ctxValid = true) ∧
    (s.status.busy = true → t.status.busy = true)

/-- R76: a legal write while BUSY = 1 is performed on INT_STATUS and INT_ENABLE, and otherwise dropped with an OKAY answer and
BUSYERR set. -/
def Obligations.BusyWritesAreDropped : Prop :=
  ∀ (s : State) (n : Size) (a : BitVec 16) (v : Word) (es : List Event),
    s.events = .write n a v :: es → s.status.busy = true →
    (locate s.cfg n a.toNat = .reg .intStatus →
      ∃ b, step s = .next { s with events := es, response := some .okay, intStatus := b } ∧
        b.toWord = s.intStatus.toWord &&& ~~~(v &&& 0x7) ∧
        b.done = (s.intStatus.done && !v.getLsbD 0) ∧ b.err = (s.intStatus.err && !v.getLsbD 1) ∧
        b.busyErr = (s.intStatus.busyErr && !v.getLsbD 2)) ∧
    (locate s.cfg n a.toNat = .reg .intEnable →
      ∃ b, step s = .next { s with events := es, response := some .okay, intEnable := b } ∧ b.toWord = v &&& 0x7 ∧
        b.done = v.getLsbD 0 ∧ b.err = v.getLsbD 1 ∧ b.busyErr = v.getLsbD 2) ∧
    (((∃ r ∈ [Reg.ctrl, Reg.cmd, Reg.msgLen, Reg.aadLen, Reg.nonceLen, Reg.tagInLen], locate s.cfg n a.toNat = .reg r) ∨
      (∃ x ∈ [Arr.key, Arr.iv, Arr.tag, Arr.nonceBuf, Arr.aadBuf, Arr.inBuf], locate s.cfg n a.toNat = .arr x)) →
      step s = .next { s with events := es, response := some .okay, intStatus := { s.intStatus with busyErr := true } })

/-- R50, R22, R25 to R28: what an idle write of each register stores, field by field and as the register reads afterwards; every
byte of the arrays, every other register, the hidden state and STATUS but for its validity flags keep their values. -/
def Obligations.RegisterWritesStore : Prop :=
  ∀ (s : State) (a : BitVec 16) (v : Word) (r : Reg) (es : List Event),
    s.events = .write .word a v :: es → s.status.busy = false → locate s.cfg .word a.toNat = .reg r →
    r ∈ [Reg.ctrl, Reg.intStatus, Reg.intEnable, Reg.msgLen, Reg.aadLen, Reg.nonceLen, Reg.tagInLen] →
    ∃ t, step s = .next t ∧ t.mem = s.mem ∧ t.response = some .okay ∧ t.events = es ∧
      KeptHidden s t ∧ KeptOutside s t (fun _ => False) ∧
      (r = .ctrl → t.ctrl.keyLen = v.extractLsb' 0 2 ∧ t.ctrl.ivGen = v.getLsbD 2 ∧ t.ctrl.tagCmp = v.getLsbD 3 ∧
        t.ctrl.tagLen = v.extractLsb' 8 5) ∧
      (r = .intStatus → t.intStatus.done = (s.intStatus.done && !v.getLsbD 0) ∧
        t.intStatus.err = (s.intStatus.err && !v.getLsbD 1) ∧ t.intStatus.busyErr = (s.intStatus.busyErr && !v.getLsbD 2)) ∧
      (r = .intEnable → t.intEnable.done = v.getLsbD 0 ∧ t.intEnable.err = v.getLsbD 1 ∧ t.intEnable.busyErr = v.getLsbD 2) ∧
      (r = .msgLen → t.msgLen = v.extractLsb' 0 16) ∧ (r = .aadLen → t.aadLen = v.extractLsb' 0 16) ∧
      (r = .nonceLen → t.nonceLen = v.extractLsb' 0 16) ∧ (r = .tagInLen → t.tagInLen = v.extractLsb' 0 5) ∧
      t.status = { s.status with ksValid := t.status.ksValid, ctxValid := t.status.ctxValid } ∧
      regValue t r = (match r with
        | .ctrl => v &&& 0x00001F0F
        | .intStatus => regValue s .intStatus &&& ~~~(v &&& 0x7)
        | .intEnable => v &&& 0x7
        | .tagInLen => v &&& 0x1F
        | _ => v &&& 0xFFFF) ∧
      (∀ q, q ≠ r → q ≠ .status → regValue t q = regValue s q)

/-- R50, R53: an idle write to an array a host may write is read back by the next read of the same place and size, and leaves
every other byte, every register but STATUS's validity flags and the hidden state as they were. -/
def Obligations.ArrayWriteIsReadBack : Prop :=
  ∀ (s : State) (n : Size) (a : BitVec 16) (v : Word) (x : Arr) (es : List Event), s.memWf = true →
    s.events = .write n a v :: es → s.status.busy = false → locate s.cfg n a.toNat = .arr x → x.readOnly = false →
    ∃ t, step s = .next t ∧ t.response = some .okay ∧ t.events = es ∧
      memRead t n a = .ok (match n with
        | .byte => v &&& 0x000000FF
        | .half => v &&& 0x0000FFFF
        | .word => v) ∧
      KeptOutside s t (fun b => a.toNat ≤ b ∧ b < a.toNat + Size.bytes n) ∧ KeptHidden s t ∧
      t.status = { s.status with ksValid := t.status.ksValid, ctxValid := t.status.ctxValid } ∧
      (∀ q, q ≠ .status → regValue t q = regValue s q)

/-- R78: after every completed write to CTRL or KEY both validity flags are 0; after one to NONCE_BUF, NONCE_LEN, AAD_BUF or
AAD_LEN CTX_VALID is 0 and KS_VALID is kept; writes to IV, TAG, MSG_LEN, TAG_IN_LEN, IN_BUF, INT_STATUS and INT_ENABLE keep both. -/
def Obligations.WritesInvalidate : Prop :=
  ∀ (s : State) (n : Size) (a : BitVec 16) (v : Word) (es : List Event),
    s.events = .write n a v :: es → s.status.busy = false →
    ∀ l, l = locate s.cfg n a.toNat →
    (l ∈ [Location.reg .ctrl, .arr .key] →
      ∃ t, step s = .next t ∧ t.status = { s.status with ksValid := false, ctxValid := false }) ∧
    (l ∈ [Location.arr .nonceBuf, .reg .nonceLen, .arr .aadBuf, .reg .aadLen] →
      ∃ t, step s = .next t ∧ t.status = { s.status with ctxValid := false }) ∧
    (l ∈ [Location.arr .iv, .arr .tag, .reg .msgLen, .reg .tagInLen, .arr .inBuf, .reg .intStatus, .reg .intEnable] →
      ∃ t, step s = .next t ∧ t.status = s.status)

/-- R135: IRQ = ((INT_STATUS[2:0] AND INT_ENABLE[2:0]) ≠ 0); IRQ is low after reset. -/
def Obligations.IrqIsTheMaskedOr : Prop :=
  (∀ s : State, s.irq = true ↔ regValue s .intStatus &&& regValue s .intEnable ≠ 0) ∧ State.reset.irq = false

/-- R136: no step both sets and clears an interrupt bit: a bit that a step clears was cleared by a host write of a 1, or by reset,
and a completion clears none. -/
def Obligations.OnlyTheHostClearsInterruptBits : Prop :=
  ∀ s t : State, step s = .next t →
    (s.intStatus.done = true → t.intStatus.done = false → HostClears s 0 ∨ ∃ es, s.events = .reset :: es) ∧
    (s.intStatus.err = true → t.intStatus.err = false → HostClears s 1 ∨ ∃ es, s.events = .reset :: es) ∧
    (s.intStatus.busyErr = true → t.intStatus.busyErr = false → HostClears s 2 ∨ ∃ es, s.events = .reset :: es)

/-! ### The functions -/

/-- R84: S is the affine map of the inverse in GF(2^8), with 0 its own inverse, and InvS is the inverse permutation. -/
def Obligations.SboxIsTheAffineMapOfTheInverse : Prop :=
  ∀ a : Byte, invSbox (sbox a) = a ∧ sbox (invSbox a) = a ∧
    ∃ g : Byte, (a = 0 → g = 0) ∧ (a ≠ 0 → gfMul8 a g = 1) ∧
      ∀ i < 8, (sbox a).getLsbD i =
        (g.getLsbD i ^^ g.getLsbD ((i + 4) % 8) ^^ g.getLsbD ((i + 5) % 8) ^^ g.getLsbD ((i + 6) % 8) ^^
          g.getLsbD ((i + 7) % 8) ^^ (0x63#8).getLsbD i)

/-- R82: GFMul8 is commutative and distributes over XOR, 0 annihilates and 1 is the identity. -/
def Obligations.GfMul8IsBilinear : Prop :=
  ∀ a b c : Byte, gfMul8 a b = gfMul8 b a ∧ gfMul8 a (b ^^^ c) = gfMul8 a b ^^^ gfMul8 a c ∧
    gfMul8 a 0 = 0 ∧ gfMul8 a 1 = a

/-- R88: GFMul128 of 0 is 0, and 0x80 00 ... 00 is its identity on both sides. -/
def Obligations.GfMul128HasZeroAndIdentity : Prop :=
  ∀ x : Bytes, x.length = 16 →
    gfMul128 x (zeros 16) = zeros 16 ∧ gfMul128 (zeros 16) x = zeros 16 ∧
    gfMul128 x (0x80 :: zeros 15) = x ∧ gfMul128 (0x80 :: zeros 15) x = x

/-- R93: the schedule is 16*(Rounds+1) bytes long and begins with the key. -/
def Obligations.ExpandKeyLengthAndPrefix : Prop :=
  ∀ (key : Bytes) (nk : Nat), (nk = 16 ∨ nk = 24 ∨ nk = 32) → key.length = nk →
    (expandKey key nk).length = 16 * (rounds nk + 1) ∧ slice (expandKey key nk) 0 nk = key

/-- R97 to R105, with the tables of R84 to R86: every round transformation is undone by its inverse. -/
def Obligations.RoundTransformationsInvert : Prop :=
  (∀ b : Bytes, b.length = 16 → store (load b) = b) ∧
  (∀ s : AesState, load (store s) = s) ∧
  (∀ (s : AesState) (w : Bytes) (r : Nat), addRoundKey (addRoundKey s w r) w r = s) ∧
  (∀ s : AesState, invSubBytes (subBytes s) = s) ∧
  (∀ s : AesState, invShiftRows (shiftRows s) = s) ∧
  (∀ s : AesState, invMixColumns (mixColumns s) = s)

/-- R108: for every key size, key and block, decrypting the encrypted block gives the block back. -/
def Obligations.DecryptInvertsEncrypt : Prop :=
  ∀ (nk : Nat) (key b : Bytes), (nk = 16 ∨ nk = 24 ∨ nk = 32) → key.length = nk → b.length = 16 →
    aesDecrypt (expandKey key nk) (rounds nk) (aesEncrypt (expandKey key nk) (rounds nk) b) = b

/-- R112: the padding is 1 to 16 bytes, each equal to its number, and makes a positive multiple of 16. -/
def Obligations.PadFillsTheBlock : Prop :=
  ∀ m : Bytes, ∃ p, p = 16 - m.length % 16 ∧ 1 ≤ p ∧ p ≤ 16 ∧
    pad m = m ++ List.replicate p (BitVec.ofNat 8 p) ∧
    (pad m).length % 16 = 0 ∧ 0 < (pad m).length ∧ (pad m).length ≤ m.length + 16

/-- R113: Unpad of a positive multiple of 16 bytes: ok exactly if the last byte p is in [1,16] and the last p bytes equal p;
then it strips them. Unpad(Pad(m)) = ok(m). -/
def Obligations.UnpadStripsExactlyValidPadding : Prop :=
  (∀ (x : Bytes), 0 < x.length → x.length % 16 = 0 → ∀ p, p = x.getLastD 0 →
    ((1 ≤ p.toNat ∧ p.toNat ≤ 16 ∧ ∀ j, x.length - p.toNat ≤ j → j < x.length → x.getD j 0 = p) →
      unpad x = some (x.take (x.length - p.toNat))) ∧
    (¬ (1 ≤ p.toNat ∧ p.toNat ≤ 16 ∧ ∀ j, x.length - p.toNat ≤ j → j < x.length → x.getD j 0 = p) →
      unpad x = none)) ∧
  (∀ m : Bytes, unpad (pad m) = some m)

/-- R115: CBC_Decrypt(iv, CBC_Encrypt(iv, P)) = P for whole blocks, when the block functions invert each other. -/
def Obligations.CbcDecryptInvertsCbcEncrypt : Prop :=
  ∀ (e d : Bytes → Bytes), (∀ b : Bytes, b.length = 16 → (e b).length = 16 ∧ d (e b) = b) →
    ∀ iv p : Bytes, iv.length = 16 → p.length % 16 = 0 → cbcDecrypt d iv (cbcEncrypt e iv p) = p

/-- R120: Inc32 counts modulo 2^32 in the last four bytes and leaves the first twelve. -/
def Obligations.Inc32CountsTheLastFourBytes : Prop :=
  ∀ b : Bytes, b.length = 16 →
    (inc32 b).length = 16 ∧ slice (inc32 b) 0 12 = slice b 0 12 ∧
    be (slice (inc32 b) 12 16) = (be (slice b 12 16) + 1) % 2 ^ 32

/-- R121, R123, R124: every GHASH input the commands build is a multiple of 16 bytes, so ERR_INTERNAL cannot arise. -/
def Obligations.GhashInputsAreBlockAligned : Prop :=
  (∀ n : Bytes, (j0Input n).length % 16 = 0) ∧ (∀ a c : Bytes, (tagInput a c).length % 16 = 0)

/-- R122: GCTR keeps the length and is its own inverse, for every block function with 16-byte results. -/
def Obligations.GctrIsSelfInverse : Prop :=
  ∀ (e : Bytes → Bytes), (∀ b : Bytes, (e b).length = 16) → ∀ icb x : Bytes,
    (gctr e icb x).length = x.length ∧ gctr e icb (gctr e icb x) = x

/-! ### Round trips and rejections on the machine -/

/-- R118: a CBC_ENC that succeeds on fewer than MAX_MSG bytes is undone by a CBC_DEC with the same key, the IV it used, and its
output as the input; for IVGEN = 0 and IVGEN = 1. One of MAX_MSG bytes succeeds with OUT_LEN = MAX_MSG + 16, which no CBC_DEC takes. -/
def Obligations.CbcRoundTripOnTheMachine : Prop :=
  (∀ s t u : State, s.memWf = true → s.cfg.wf = true → u.memWf = true → u.cfg = s.cfg →
    s.status.busy = true → exec .cbcEnc s = .next t → t.status.busy = false → t.status.errCode = .ok →
    s.msgLen.toNat < s.cfg.maxMsg →
    u.ctrl.keyLen = s.ctrl.keyLen → (∀ a, inArr .key 32 a → u.byteAt a = s.byteAt a) →
    u.iv = t.iv → u.msgLen = t.outLen → u.input t.outLen.toNat = t.output t.outLen.toNat →
    ∃ v, exec .cbcDec u = .next v ∧ Completed 0x5 .ok s.msgLen.toNat u v ∧ v.output s.msgLen.toNat = s.message) ∧
  (∀ s t u : State, s.cfg.wf = true → exec .cbcEnc s = .next t → s.status.busy = true → t.status.busy = false →
    t.status.errCode = .ok → s.msgLen.toNat = s.cfg.maxMsg →
    t.outLen.toNat = s.cfg.maxMsg + 16 ∧
    (u.cfg = s.cfg → u.ctrl.keyLen = s.ctrl.keyLen → u.msgLen = t.outLen →
      ∃ v, exec .cbcDec u = .next v ∧ v.status.errCode = .len))

/-- R119: CBC_DEC on a ciphertext whose last decrypted block ends in 0x00, or in a byte above 0x10, or whose last p bytes are not
all p, completes with ERR_PAD. -/
def Obligations.BadPaddingIsRejected : Prop :=
  ∀ (s : State) (nk : Nat) (x : Bytes) (p : Byte), keyBytes s.ctrl.keyLen = some nk →
    s.msgLen.toNat ≠ 0 → s.msgLen.toNat % 16 = 0 → s.msgLen.toNat ≤ s.cfg.maxMsg →
    x = cbcDecrypt (aesDecrypt (expandKey (s.key nk) nk) (rounds nk)) s.iv s.message →
    p = x.getLastD 0 →
    (p = 0x00 ∨ 0x10 < p.toNat ∨ ∃ j, x.length - p.toNat ≤ j ∧ j < x.length ∧ x.getD j 0 ≠ p) →
    ∃ t, exec .cbcDec s = .next t ∧ t.status.errCode = .pad ∧ t.status.lastOp = 0x5 ∧ t.status.busy = false ∧ t.mem = s.mem

/-- R129: a GCM_DEC of a successful GCM_ENC's output, in the context that nothing has invalidated, gives the message back with
AUTH_OK = 1, for both TAGCMP values. -/
def Obligations.GcmRoundTripOnTheMachine : Prop :=
  ∀ s t u : State, Inv s → exec .gcmEnc s = .next t → t.status.errCode = .ok → t.status.lastOp = 0x7 →
    s.status.busy = true → u.memWf = true →
    u = { t with mem := u.mem, intStatus := u.intStatus, intEnable := u.intEnable, events := u.events,
                 response := u.response, rngPort := u.rngPort, pendingOp := u.pendingOp, status := u.status } →
    u.status.ctxValid = true →
    u.sched = t.sched → u.hsub = t.hsub → u.j0 = t.j0 → u.aad = t.aad → u.tag = t.tag →
    u.input s.msgLen.toNat = t.output s.msgLen.toNat →
    ∃ v, exec .gcmDec u = .next v ∧ Completed 0x8 .ok s.msgLen.toNat u v ∧
      v.status.authOk = true ∧ v.output s.msgLen.toNat = s.message

/-- R130.2 and R125: with TAGCMP = 0 a supplied tag of length 0 authenticates every message; with TAGCMP = 1 a supplied length
other than TAGLEN, and with TAGCMP = 0 one above it, never does. -/
def Obligations.SuppliedTagLengthDecides : Prop :=
  ∀ (s : State), Inv s → s.status.ctxValid = true → s.msgLen.toNat ≤ s.cfg.maxMsg →
    (s.ctrl.tagCmp = false → s.tagInLen = 0 →
      ∃ t, exec .gcmDec s = .next t ∧ t.status.errCode = .ok ∧ t.status.authOk = true) ∧
    (s.ctrl.tagCmp = true ∧ s.tagInLen ≠ s.ctrl.tagLen ∨ s.ctrl.tagLen.toNat < s.tagInLen.toNat →
      ∃ t, exec .gcmDec s = .next t ∧ t.status.errCode = .auth ∧ t.status.authOk = false ∧ t.mem = s.mem)
end

