-- ==== Sys2Proof/Laws/Memory.lean ====
section
/-! SUPPORT. Laws of the byte memory: read after write, every other byte kept, the canonical form kept, and equal reads
making equal memories. -/

namespace Sys2Proof.Machine

theorem Memory.wf_cons (gen a : Nat) (v : Byte) (m : List Host.Cell) :
    Memory.wf gen ((a, v) :: m) = true ↔
      v ≠ Memory.unlisted gen a ∧ (∀ c ∈ m, a < c.1) ∧ Memory.wf gen m = true := by
  simp [Memory.wf, and_assoc]

/-- An offset below every listed one reads as unlisted. -/
theorem Memory.read_of_lt (gen a : Nat) (m : List Host.Cell) (h : ∀ c ∈ m, a < c.1) :
    Memory.read gen m a = Memory.unlisted gen a := by
  induction m with
  | nil => rfl
  | cons c m ih =>
    obtain ⟨b, w⟩ := c
    have hb : a < b := h (b, w) (by simp)
    rw [Memory.read, if_neg (by omega)]
    exact ih fun c hc => h c (by simp [hc])

theorem Memory.read_cons (gen a : Nat) (v : Byte) (m : List Host.Cell) (h : ∀ c ∈ m, a < c.1) (x : Nat) :
    Memory.read gen (Memory.cons gen a v m) x = if x = a then v else Memory.read gen m x := by
  unfold Memory.cons
  split
  · next hv =>
    split
    · next hx => rw [hx, hv]; exact Memory.read_of_lt gen a m h
    · rfl
  · rw [Memory.read]
    by_cases hx : x = a
    · simp [hx]
    · simp [hx, Ne.symm hx]

theorem Memory.cons_wf (gen a : Nat) (v : Byte) (m : List Host.Cell) (h : ∀ c ∈ m, a < c.1)
    (hm : Memory.wf gen m = true) : Memory.wf gen (Memory.cons gen a v m) = true := by
  unfold Memory.cons
  split
  · exact hm
  · exact (Memory.wf_cons gen a v m).2 ⟨‹_›, h, hm⟩

theorem Memory.cons_addr (gen a : Nat) (v : Byte) (m : List Host.Cell) (c : Host.Cell)
    (h : c ∈ Memory.cons gen a v m) : c.1 = a ∨ c ∈ m := by
  unfold Memory.cons at h
  split at h
  · exact .inr h
  · rcases List.mem_cons.1 h with h | h
    · exact .inl (by rw [h])
    · exact .inr h

theorem Memory.write_addr (gen a : Nat) (v : Byte) (m : List Host.Cell) (c : Host.Cell)
    (h : c ∈ Memory.write gen m a v) : c.1 = a ∨ c ∈ m := by
  induction m with
  | nil => exact Memory.cons_addr gen a v [] c h
  | cons d m ih =>
    obtain ⟨b, w⟩ := d
    rw [Memory.write] at h
    split at h
    · exact Memory.cons_addr gen a v _ c h
    · split at h
      · rcases Memory.cons_addr gen a v m c h with h | h
        · exact .inl h
        · exact .inr (by simp [h])
      · rcases List.mem_cons.1 h with h | h
        · exact .inr (by simp [h])
        · rcases ih h with h | h
          · exact .inl h
          · exact .inr (by simp [h])

/-- A write keeps the canonical form. -/
theorem Memory.write_wf (gen a : Nat) (v : Byte) (m : List Host.Cell) (hm : Memory.wf gen m = true) :
    Memory.wf gen (Memory.write gen m a v) = true := by
  induction m with
  | nil => exact Memory.cons_wf gen a v [] (by simp) hm
  | cons d m ih =>
    obtain ⟨b, w⟩ := d
    obtain ⟨hw, hlt, hm'⟩ := (Memory.wf_cons gen b w m).1 hm
    rw [Memory.write]
    split
    · refine Memory.cons_wf gen a v _ ?_ hm
      intro c hc
      rcases List.mem_cons.1 hc with rfl | hc
      · assumption
      · exact Nat.lt_trans ‹_› (hlt c hc)
    · split
      · subst_vars; exact Memory.cons_wf gen _ v m hlt hm'
      · refine (Memory.wf_cons gen b w _).2 ⟨hw, ?_, ih hm'⟩
        intro c hc
        rcases Memory.write_addr gen a v m c hc with h | h
        · omega
        · exact hlt c h

/-- What a byte reads as after a write. -/
theorem Memory.read_write (gen a : Nat) (v : Byte) (m : List Host.Cell) (hm : Memory.wf gen m = true) (x : Nat) :
    Memory.read gen (Memory.write gen m a v) x = if x = a then v else Memory.read gen m x := by
  induction m with
  | nil => exact Memory.read_cons gen a v [] (by simp) x
  | cons d m ih =>
    obtain ⟨b, w⟩ := d
    obtain ⟨hw, hlt, hm'⟩ := (Memory.wf_cons gen b w m).1 hm
    rw [Memory.write]
    split
    · refine Memory.read_cons gen a v _ ?_ x
      intro c hc
      rcases List.mem_cons.1 hc with rfl | hc
      · assumption
      · exact Nat.lt_trans ‹_› (hlt c hc)
    · split
      · subst_vars
        rw [Memory.read_cons gen _ v m hlt x, Memory.read]
        by_cases hx : x = b
        · simp [hx]
        · simp [hx, Ne.symm hx]
      · rw [Memory.read, ih hm', Memory.read]
        by_cases hx : x = a
        · simp [hx, Ne.symm ‹¬a = b›]
        · simp [hx]

/-- Two canonical memories that read alike are equal. -/
theorem Memory.ext (gen : Nat) (m m' : List Host.Cell) (hm : Memory.wf gen m = true) (hm' : Memory.wf gen m' = true)
    (h : ∀ a, Memory.read gen m a = Memory.read gen m' a) : m = m' := by
  induction m generalizing m' with
  | nil =>
    cases m' with
    | nil => rfl
    | cons d m' =>
      obtain ⟨b, w⟩ := d
      have hw := ((Memory.wf_cons gen b w m').1 hm').1
      have := h b
      simp [Memory.read] at this
      exact absurd this.symm hw
  | cons c m ih =>
    obtain ⟨a, v⟩ := c
    obtain ⟨hv, hlt, hm1⟩ := (Memory.wf_cons gen a v m).1 hm
    cases m' with
    | nil =>
      have := h a
      simp [Memory.read] at this
      exact absurd this hv
    | cons d m' =>
      obtain ⟨b, w⟩ := d
      obtain ⟨hw, hlt', hm1'⟩ := (Memory.wf_cons gen b w m').1 hm'
      have hab : a = b := by
        rcases Nat.lt_trichotomy a b with hlt1 | rfl | hlt1
        · have := h a
          rw [Memory.read, if_pos rfl, Memory.read_of_lt gen a] at this
          · exact absurd this hv
          · intro c hc
            rcases List.mem_cons.1 hc with rfl | hc
            · exact hlt1
            · exact Nat.lt_trans hlt1 (hlt' c hc)
        · rfl
        · have := h b
          rw [Memory.read_of_lt gen b, Memory.read, if_pos rfl] at this
          · exact absurd this.symm hw
          · intro c hc
            rcases List.mem_cons.1 hc with rfl | hc
            · exact hlt1
            · exact Nat.lt_trans hlt1 (hlt c hc)
      subst hab
      have hvw : v = w := by simpa [Memory.read] using h a
      subst hvw
      congr 1
      refine ih m' hm1 hm1' fun x => ?_
      by_cases hx : a = x
      · subst hx
        rw [Memory.read_of_lt gen a m hlt, Memory.read_of_lt gen a m' hlt']
      · simpa [Memory.read, hx] using h x

/-! ### Sequences of bytes -/

@[simp] theorem Memory.readBytes_length (gen : Nat) (m : List Host.Cell) (a n : Nat) :
    (Memory.readBytes gen m a n).length = n := by
  induction n generalizing a with
  | zero => rfl
  | succ n ih => simp [Memory.readBytes, ih]

theorem Memory.readBytes_getElem (gen : Nat) (m : List Host.Cell) (a n i : Nat)
    (h : i < (Memory.readBytes gen m a n).length) :
    (Memory.readBytes gen m a n)[i] = Memory.read gen m (a + i) := by
  induction n generalizing a i with
  | zero => simp at h
  | succ n ih =>
    cases i with
    | zero => rfl
    | succ i =>
      simp only [Memory.readBytes, List.getElem_cons_succ]
      rw [ih]
      congr 1
      omega

/-- Sequences of bytes that read alike are equal. -/
theorem Memory.readBytes_congr (gen gen' : Nat) (m m' : List Host.Cell) (a n : Nat)
    (h : ∀ x, a ≤ x → x < a + n → Memory.read gen m x = Memory.read gen' m' x) :
    Memory.readBytes gen m a n = Memory.readBytes gen' m' a n := by
  apply List.ext_getElem (by simp)
  intro i h1 h2
  rw [Memory.readBytes_getElem, Memory.readBytes_getElem]
  have : i < n := by simpa using h1
  exact h _ (by omega) (by omega)

theorem Memory.readBytes_eq_iff (gen gen' : Nat) (m m' : List Host.Cell) (a n : Nat) :
    Memory.readBytes gen m a n = Memory.readBytes gen' m' a n ↔
      ∀ x, a ≤ x → x < a + n → Memory.read gen m x = Memory.read gen' m' x := by
  refine ⟨fun h x h1 h2 => ?_, Memory.readBytes_congr gen gen' m m' a n⟩
  have hl : x - a < (Memory.readBytes gen m a n).length := by simp; omega
  have hl' : x - a < (Memory.readBytes gen' m' a n).length := by simp; omega
  have := Memory.readBytes_getElem gen m a n (x - a) hl
  rw [← Nat.add_sub_cancel' h1, ← this, ← Memory.readBytes_getElem gen' m' a n (x - a) hl']
  simp [h]

/-- A prefix of a sequence of bytes. -/
theorem Memory.readBytes_take (gen : Nat) (m : List Host.Cell) (a n k : Nat) (h : k ≤ n) :
    (Memory.readBytes gen m a n).take k = Memory.readBytes gen m a k := by
  apply List.ext_getElem (by simp [h])
  intro i h1 h2
  simp [Memory.readBytes_getElem]

/-- Writing a sequence keeps the canonical form. -/
theorem Memory.writeBytes_wf (gen : Nat) (m : List Host.Cell) (a : Nat) (bs : Bytes) (hm : Memory.wf gen m = true) :
    Memory.wf gen (Memory.writeBytes gen m a bs) = true := by
  induction bs generalizing m a with
  | nil => exact hm
  | cons b bs ih => exact ih _ _ (Memory.write_wf gen a b m hm)

/-- What a byte reads as after a sequence is written. -/
theorem Memory.read_writeBytes (gen : Nat) (m : List Host.Cell) (a : Nat) (bs : Bytes) (hm : Memory.wf gen m = true)
    (x : Nat) :
    Memory.read gen (Memory.writeBytes gen m a bs) x =
      if a ≤ x ∧ x < a + bs.length then bs.getD (x - a) 0 else Memory.read gen m x := by
  induction bs generalizing m a with
  | nil => simp [Memory.writeBytes]
  | cons b bs ih =>
    rw [Memory.writeBytes, ih _ _ (Memory.write_wf gen a b m hm), Memory.read_write gen a b m hm]
    simp only [List.length_cons]
    by_cases hx : x = a
    · subst hx; simp
    · by_cases h1 : a + 1 ≤ x ∧ x < a + 1 + bs.length
      · rw [if_pos h1, if_pos ⟨by omega, by omega⟩]
        obtain ⟨k, rfl⟩ : ∃ k, x = a + 1 + k := ⟨x - (a + 1), by omega⟩
        rw [show a + 1 + k - (a + 1) = k by omega, show a + 1 + k - a = k + 1 by omega]
        simp
      · rw [if_neg h1, if_neg hx, if_neg (by omega)]

theorem Memory.read_writeBytes_outside (gen : Nat) (m : List Host.Cell) (a : Nat) (bs : Bytes)
    (hm : Memory.wf gen m = true) (x : Nat) (h : x < a ∨ a + bs.length ≤ x) :
    Memory.read gen (Memory.writeBytes gen m a bs) x = Memory.read gen m x := by
  rw [Memory.read_writeBytes gen m a bs hm, if_neg (by omega)]

/-- Reading back a written sequence. -/
theorem Memory.readBytes_writeBytes_same (gen : Nat) (m : List Host.Cell) (a : Nat) (bs : Bytes)
    (hm : Memory.wf gen m = true) :
    Memory.readBytes gen (Memory.writeBytes gen m a bs) a bs.length = bs := by
  apply List.ext_getElem (by simp)
  intro i h1 h2
  rw [Memory.readBytes_getElem, Memory.read_writeBytes gen m a bs hm, if_pos ⟨by omega, by omega⟩]
  simp [h2]

/-- A sequence apart from the written bytes reads as before. -/
theorem Memory.readBytes_writeBytes_apart (gen : Nat) (m : List Host.Cell) (a : Nat) (bs : Bytes)
    (hm : Memory.wf gen m = true) (b n : Nat) (h : b + n ≤ a ∨ a + bs.length ≤ b) :
    Memory.readBytes gen (Memory.writeBytes gen m a bs) b n = Memory.readBytes gen m b n :=
  Memory.readBytes_congr _ _ _ _ _ _ fun x h1 h2 =>
    Memory.read_writeBytes_outside gen m a bs hm x (by omega)

end Sys2Proof.Machine
end

