-- ==== Sys2Proof/Laws/Sequences.lean ====
section
/-! SUPPORT. Lengths and parts of the byte sequences that the functions build. -/

namespace Sys2Proof.Machine

@[simp] theorem zeros_length (n : Nat) : (zeros n).length = n := by simp [zeros]

@[simp] theorem xorBytes_length (a b : Bytes) : (xorBytes a b).length = min a.length b.length := by
  simp [xorBytes]

@[simp] theorem slice_length (a : Bytes) (i j : Nat) : (slice a i j).length = min (j - i) (a.length - i) := by
  simp [slice]

/-- XOR twice with a sequence that is long enough gives the first back. -/
theorem xorBytes_cancel (a b : Bytes) (h : a.length ≤ b.length) : xorBytes (xorBytes a b) b = a := by
  induction a generalizing b with
  | nil => simp [xorBytes]
  | cons x a ih =>
    cases b with
    | nil => simp at h
    | cons y b =>
      simp only [xorBytes, List.zipWith_cons_cons, List.cons.injEq]
      exact ⟨by rw [BitVec.xor_assoc, BitVec.xor_self, BitVec.xor_zero], ih b (by simpa using h)⟩

@[simp] theorem beBytes_length (n v : Nat) : (beBytes n v).length = n := by
  induction n with
  | zero => rfl
  | succ n ih => simp [beBytes, ih]

@[simp] theorem leBytes_length (n : Nat) (v : Word) : (leBytes n v).length = n := by
  induction n generalizing v with
  | zero => rfl
  | succ n ih => simp [leBytes, ih]

/-- A big-endian number after one more byte. -/
theorem be_append (a : Bytes) (b : Byte) : be (a ++ [b]) = be a * 256 + b.toNat := by simp [be]

theorem be_lt (a : Bytes) : be a < 256 ^ a.length := by
  induction a using List.reverseRecOn with
  | nil => simp [be]
  | append_singleton a b ih =>
    rw [be_append, List.length_append, List.length_singleton, Nat.pow_succ]
    have := b.isLt
    omega

theorem beBytes_succ_append (n v : Nat) :
    beBytes (n + 1) v = beBytes n (v / 256) ++ [BitVec.ofNat 8 v] := by
  induction n generalizing v with
  | zero => simp [beBytes]
  | succ n ih =>
    rw [beBytes, ih, beBytes, Nat.div_div_eq_div_mul, Nat.pow_succ']
    rfl

/-- `BE` of `BEbytes_n(v)` is v mod 2^(8n) (R11). -/
theorem be_beBytes (n v : Nat) : be (beBytes n v) = v % 256 ^ n := by
  induction n generalizing v with
  | zero => simp [beBytes, be, Nat.mod_one]
  | succ n ih =>
    rw [beBytes_succ_append, be_append, ih, BitVec.toNat_ofNat, show 256 ^ (n + 1) = 256 * 256 ^ n from Nat.pow_succ',
      Nat.mod_mul]
    omega

/-- `BEbytes_n` of `BE(a)` is `a` (R11). -/
theorem beBytes_be (a : Bytes) : beBytes a.length (be a) = a := by
  induction a using List.reverseRecOn with
  | nil => rfl
  | append_singleton a b ih =>
    have hb := b.isLt
    rw [List.length_append, List.length_singleton, beBytes_succ_append, be_append,
      show (be a * 256 + b.toNat) / 256 = be a by omega, ih]
    congr 2
    apply BitVec.eq_of_toNat_eq
    rw [BitVec.toNat_ofNat]
    omega

@[simp] theorem gfMul128_length (x y : Bytes) : (gfMul128 x y).length = 16 := by simp [gfMul128]

@[simp] theorem store_length (s : AesState) : (store s).length = 16 := rfl

@[simp] theorem aesEncrypt_length (w : Bytes) (nr : Nat) (b : Bytes) : (aesEncrypt w nr b).length = 16 := rfl

@[simp] theorem aesDecrypt_length (w : Bytes) (nr : Nat) (b : Bytes) : (aesDecrypt w nr b).length = 16 := rfl

@[simp] theorem ghash_length (h x : Bytes) : (ghash h x).length = 16 := by
  unfold ghash
  generalize blocks x = bs
  induction bs using List.reverseRecOn with
  | nil => simp
  | append_singleton bs b _ => simp

theorem blocksN_length (k : Nat) (x : Bytes) : (blocksN k x).length = k := by
  induction k generalizing x with
  | zero => rfl
  | succ k ih => simp [blocksN, ih]

/-- A sequence begins with its first block. -/
theorem blocks_cons (x : Bytes) (h : x ≠ []) : blocks x = x.take 16 :: blocks (x.drop 16) := by
  have hl : 0 < x.length := List.length_pos_iff.2 h
  unfold blocks
  rw [List.length_drop]
  by_cases h16 : 16 ≤ x.length
  · obtain ⟨k, hk⟩ : ∃ k, x.length = 16 + k := ⟨x.length - 16, by omega⟩
    rw [show (x.length + 15) / 16 = (x.length - 16 + 15) / 16 + 1 by omega, blocksN]
  · rw [show (x.length + 15) / 16 = 0 + 1 by omega, show (x.length - 16 + 15) / 16 = 0 by omega]
    rfl

@[simp] theorem blocks_nil : blocks [] = [] := rfl

/-- A whole block before a sequence is its first block. -/
theorem blocks_append (b x : Bytes) (h : b.length = 16) : blocks (b ++ x) = b :: blocks x := by
  rw [blocks_cons _ (by intro e; simp [List.append_eq_nil_iff] at e; simp [e] at h)]
  simp [← h]

/-- The shift to a multiple of 16 (R123, R124). -/
theorem padLen_spec (n : Nat) : (n + padLen n) % 16 = 0 ∧ padLen n < 16 := by
  unfold padLen
  omega

/-- A schedule followed by its zero fill reads like the schedule: past the end both give 0 (R95). -/
theorem schedImage_getD (w : Bytes) (i : Nat) : (schedImage w).getD i 0 = w.getD i 0 := by
  unfold schedImage zeros
  by_cases h : i < w.length
  · simp [List.getD_eq_getElem?_getD, List.getElem?_append, h]
  · have hw : w[i]? = none := by simpa using h
    by_cases h2 : i - w.length < 240 - w.length
    · simp [List.getD_eq_getElem?_getD, List.getElem?_append, h]
    · simp [List.getD_eq_getElem?_getD, List.getElem?_append, h]

theorem roundKey_schedImage (w : Bytes) (r : Nat) : roundKey (schedImage w) r = roundKey w r := by
  simp only [roundKey, schedImage_getD]

/-- The cipher reads the same from SCHED as from the schedule (R95). -/
theorem aesEncrypt_schedImage (w : Bytes) (nr : Nat) (b : Bytes) :
    aesEncrypt (schedImage w) nr b = aesEncrypt w nr b := by
  have h : ∀ s r, addRoundKey s (schedImage w) r = addRoundKey s w r := by
    intro s r; simp only [addRoundKey, roundKey_schedImage]
  have h2 : encRound (schedImage w) = encRound w := by
    funext s r; simp only [encRound, h]
  simp only [aesEncrypt, h, h2]

end Sys2Proof.Machine
end

