-- ==== Sys2Proof/Laws/State.lean ====
section
/-! SUPPORT. What each named update of the state does to each field, one lemma a field. -/

namespace Sys2Proof.Machine

/-! ### storeBytes -/

@[simp] theorem State.storeBytes_cfg (s : State) (a : Nat) (bs : Bytes) : (s.storeBytes a bs).cfg = s.cfg := rfl
@[simp] theorem State.storeBytes_ctrl (s : State) (a : Nat) (bs : Bytes) : (s.storeBytes a bs).ctrl = s.ctrl := rfl
@[simp] theorem State.storeBytes_status (s : State) (a : Nat) (bs : Bytes) :
    (s.storeBytes a bs).status =
      s.status := rfl
@[simp] theorem State.storeBytes_intStatus (s : State) (a : Nat) (bs : Bytes) :
    (s.storeBytes a bs).intStatus =
      s.intStatus := rfl
@[simp] theorem State.storeBytes_intEnable (s : State) (a : Nat) (bs : Bytes) :
    (s.storeBytes a bs).intEnable =
      s.intEnable := rfl
@[simp] theorem State.storeBytes_msgLen (s : State) (a : Nat) (bs : Bytes) :
    (s.storeBytes a bs).msgLen =
      s.msgLen := rfl
@[simp] theorem State.storeBytes_aadLen (s : State) (a : Nat) (bs : Bytes) :
    (s.storeBytes a bs).aadLen =
      s.aadLen := rfl
@[simp] theorem State.storeBytes_nonceLen (s : State) (a : Nat) (bs : Bytes) :
    (s.storeBytes a bs).nonceLen =
      s.nonceLen := rfl
@[simp] theorem State.storeBytes_tagInLen (s : State) (a : Nat) (bs : Bytes) :
    (s.storeBytes a bs).tagInLen =
      s.tagInLen := rfl
@[simp] theorem State.storeBytes_outLen (s : State) (a : Nat) (bs : Bytes) :
    (s.storeBytes a bs).outLen =
      s.outLen := rfl
@[simp] theorem State.storeBytes_mem (s : State) (a : Nat) (bs : Bytes) :
    (s.storeBytes a bs).mem =
      Memory.writeBytes s.resets s.mem a bs := rfl
@[simp] theorem State.storeBytes_pendingOp (s : State) (a : Nat) (bs : Bytes) :
    (s.storeBytes a bs).pendingOp =
      s.pendingOp := rfl
@[simp] theorem State.storeBytes_rngWait (s : State) (a : Nat) (bs : Bytes) :
    (s.storeBytes a bs).rngWait =
      s.rngWait := rfl
@[simp] theorem State.storeBytes_rngPort (s : State) (a : Nat) (bs : Bytes) :
    (s.storeBytes a bs).rngPort =
      s.rngPort := rfl
@[simp] theorem State.storeBytes_resets (s : State) (a : Nat) (bs : Bytes) :
    (s.storeBytes a bs).resets =
      s.resets := rfl
@[simp] theorem State.storeBytes_events (s : State) (a : Nat) (bs : Bytes) :
    (s.storeBytes a bs).events =
      s.events := rfl
@[simp] theorem State.storeBytes_response (s : State) (a : Nat) (bs : Bytes) :
    (s.storeBytes a bs).response =
      s.response := rfl

/-! ### setArr -/

@[simp] theorem State.setArr_cfg (s : State) (x : Arr) (bs : Bytes) : (s.setArr x bs).cfg = s.cfg := rfl
@[simp] theorem State.setArr_ctrl (s : State) (x : Arr) (bs : Bytes) : (s.setArr x bs).ctrl = s.ctrl := rfl
@[simp] theorem State.setArr_status (s : State) (x : Arr) (bs : Bytes) : (s.setArr x bs).status = s.status := rfl
@[simp] theorem State.setArr_intStatus (s : State) (x : Arr) (bs : Bytes) :
    (s.setArr x bs).intStatus =
      s.intStatus := rfl
@[simp] theorem State.setArr_intEnable (s : State) (x : Arr) (bs : Bytes) :
    (s.setArr x bs).intEnable =
      s.intEnable := rfl
@[simp] theorem State.setArr_msgLen (s : State) (x : Arr) (bs : Bytes) : (s.setArr x bs).msgLen = s.msgLen := rfl
@[simp] theorem State.setArr_aadLen (s : State) (x : Arr) (bs : Bytes) : (s.setArr x bs).aadLen = s.aadLen := rfl
@[simp] theorem State.setArr_nonceLen (s : State) (x : Arr) (bs : Bytes) :
    (s.setArr x bs).nonceLen =
      s.nonceLen := rfl
@[simp] theorem State.setArr_tagInLen (s : State) (x : Arr) (bs : Bytes) :
    (s.setArr x bs).tagInLen =
      s.tagInLen := rfl
@[simp] theorem State.setArr_outLen (s : State) (x : Arr) (bs : Bytes) : (s.setArr x bs).outLen = s.outLen := rfl
@[simp] theorem State.setArr_mem (s : State) (x : Arr) (bs : Bytes) :
    (s.setArr x bs).mem =
      Memory.writeBytes s.resets s.mem x.base bs := rfl
@[simp] theorem State.setArr_pendingOp (s : State) (x : Arr) (bs : Bytes) :
    (s.setArr x bs).pendingOp =
      s.pendingOp := rfl
@[simp] theorem State.setArr_rngWait (s : State) (x : Arr) (bs : Bytes) : (s.setArr x bs).rngWait = s.rngWait := rfl
@[simp] theorem State.setArr_rngPort (s : State) (x : Arr) (bs : Bytes) : (s.setArr x bs).rngPort = s.rngPort := rfl
@[simp] theorem State.setArr_resets (s : State) (x : Arr) (bs : Bytes) : (s.setArr x bs).resets = s.resets := rfl
@[simp] theorem State.setArr_events (s : State) (x : Arr) (bs : Bytes) : (s.setArr x bs).events = s.events := rfl
@[simp] theorem State.setArr_response (s : State) (x : Arr) (bs : Bytes) :
    (s.setArr x bs).response =
      s.response := rfl

/-! ### setSched -/

@[simp] theorem State.setSched_cfg (s : State) (w : Bytes) : (s.setSched w).cfg = s.cfg := rfl
@[simp] theorem State.setSched_ctrl (s : State) (w : Bytes) : (s.setSched w).ctrl = s.ctrl := rfl
@[simp] theorem State.setSched_status (s : State) (w : Bytes) :
    (s.setSched w).status =
      { s.status with ksValid := true } := rfl
@[simp] theorem State.setSched_intStatus (s : State) (w : Bytes) : (s.setSched w).intStatus = s.intStatus := rfl
@[simp] theorem State.setSched_intEnable (s : State) (w : Bytes) : (s.setSched w).intEnable = s.intEnable := rfl
@[simp] theorem State.setSched_msgLen (s : State) (w : Bytes) : (s.setSched w).msgLen = s.msgLen := rfl
@[simp] theorem State.setSched_aadLen (s : State) (w : Bytes) : (s.setSched w).aadLen = s.aadLen := rfl
@[simp] theorem State.setSched_nonceLen (s : State) (w : Bytes) : (s.setSched w).nonceLen = s.nonceLen := rfl
@[simp] theorem State.setSched_tagInLen (s : State) (w : Bytes) : (s.setSched w).tagInLen = s.tagInLen := rfl
@[simp] theorem State.setSched_outLen (s : State) (w : Bytes) : (s.setSched w).outLen = s.outLen := rfl
@[simp] theorem State.setSched_mem (s : State) (w : Bytes) :
    (s.setSched w).mem =
      Memory.writeBytes s.resets s.mem 0x200 (schedImage w) := rfl
@[simp] theorem State.setSched_pendingOp (s : State) (w : Bytes) : (s.setSched w).pendingOp = s.pendingOp := rfl
@[simp] theorem State.setSched_rngWait (s : State) (w : Bytes) : (s.setSched w).rngWait = s.rngWait := rfl
@[simp] theorem State.setSched_rngPort (s : State) (w : Bytes) : (s.setSched w).rngPort = s.rngPort := rfl
@[simp] theorem State.setSched_resets (s : State) (w : Bytes) : (s.setSched w).resets = s.resets := rfl
@[simp] theorem State.setSched_events (s : State) (w : Bytes) : (s.setSched w).events = s.events := rfl
@[simp] theorem State.setSched_response (s : State) (w : Bytes) : (s.setSched w).response = s.response := rfl

/-! ### complete -/

@[simp] theorem State.complete_cfg (s : State) (op : BitVec 4) (code : ErrCode) (n : Nat) :
    (s.complete op code n).cfg =
      s.cfg := rfl
@[simp] theorem State.complete_ctrl (s : State) (op : BitVec 4) (code : ErrCode) (n : Nat) :
    (s.complete op code n).ctrl =
      s.ctrl := rfl
@[simp] theorem State.complete_status (s : State) (op : BitVec 4) (code : ErrCode) (n : Nat) :
    (s.complete op code n).status =
      { s.status with errCode := code, lastOp := op, authOk := op == 0x8 && code == .ok, busy := false } := rfl
@[simp] theorem State.complete_intStatus (s : State) (op : BitVec 4) (code : ErrCode) (n : Nat) :
    (s.complete op code n).intStatus =
      { s.intStatus with done := true, err := s.intStatus.err || !(code == .ok) } := rfl
@[simp] theorem State.complete_intEnable (s : State) (op : BitVec 4) (code : ErrCode) (n : Nat) :
    (s.complete op code n).intEnable =
      s.intEnable := rfl
@[simp] theorem State.complete_msgLen (s : State) (op : BitVec 4) (code : ErrCode) (n : Nat) :
    (s.complete op code n).msgLen =
      s.msgLen := rfl
@[simp] theorem State.complete_aadLen (s : State) (op : BitVec 4) (code : ErrCode) (n : Nat) :
    (s.complete op code n).aadLen =
      s.aadLen := rfl
@[simp] theorem State.complete_nonceLen (s : State) (op : BitVec 4) (code : ErrCode) (n : Nat) :
    (s.complete op code n).nonceLen =
      s.nonceLen := rfl
@[simp] theorem State.complete_tagInLen (s : State) (op : BitVec 4) (code : ErrCode) (n : Nat) :
    (s.complete op code n).tagInLen =
      s.tagInLen := rfl
@[simp] theorem State.complete_outLen (s : State) (op : BitVec 4) (code : ErrCode) (n : Nat) :
    (s.complete op code n).outLen =
      BitVec.ofNat 16 n := rfl
@[simp] theorem State.complete_mem (s : State) (op : BitVec 4) (code : ErrCode) (n : Nat) :
    (s.complete op code n).mem =
      s.mem := rfl
@[simp] theorem State.complete_pendingOp (s : State) (op : BitVec 4) (code : ErrCode) (n : Nat) :
    (s.complete op code n).pendingOp =
      s.pendingOp := rfl
@[simp] theorem State.complete_rngWait (s : State) (op : BitVec 4) (code : ErrCode) (n : Nat) :
    (s.complete op code n).rngWait =
      s.rngWait := rfl
@[simp] theorem State.complete_rngPort (s : State) (op : BitVec 4) (code : ErrCode) (n : Nat) :
    (s.complete op code n).rngPort =
      s.rngPort := rfl
@[simp] theorem State.complete_resets (s : State) (op : BitVec 4) (code : ErrCode) (n : Nat) :
    (s.complete op code n).resets =
      s.resets := rfl
@[simp] theorem State.complete_events (s : State) (op : BitVec 4) (code : ErrCode) (n : Nat) :
    (s.complete op code n).events =
      s.events := rfl
@[simp] theorem State.complete_response (s : State) (op : BitVec 4) (code : ErrCode) (n : Nat) :
    (s.complete op code n).response =
      s.response := rfl

/-! ### cbcEncWrites -/

@[simp] theorem State.cbcEncWrites_cfg (s : State) (nr : Nat) (w iv : Bytes) :
    (s.cbcEncWrites nr w iv).cfg =
      s.cfg := rfl
@[simp] theorem State.cbcEncWrites_ctrl (s : State) (nr : Nat) (w iv : Bytes) :
    (s.cbcEncWrites nr w iv).ctrl =
      s.ctrl := rfl
@[simp] theorem State.cbcEncWrites_status (s : State) (nr : Nat) (w iv : Bytes) :
    (s.cbcEncWrites nr w iv).status =
      { s.status with ksValid := true } := rfl
@[simp] theorem State.cbcEncWrites_intStatus (s : State) (nr : Nat) (w iv : Bytes) :
    (s.cbcEncWrites nr w iv).intStatus =
      s.intStatus := rfl
@[simp] theorem State.cbcEncWrites_intEnable (s : State) (nr : Nat) (w iv : Bytes) :
    (s.cbcEncWrites nr w iv).intEnable =
      s.intEnable := rfl
@[simp] theorem State.cbcEncWrites_msgLen (s : State) (nr : Nat) (w iv : Bytes) :
    (s.cbcEncWrites nr w iv).msgLen =
      s.msgLen := rfl
@[simp] theorem State.cbcEncWrites_aadLen (s : State) (nr : Nat) (w iv : Bytes) :
    (s.cbcEncWrites nr w iv).aadLen =
      s.aadLen := rfl
@[simp] theorem State.cbcEncWrites_nonceLen (s : State) (nr : Nat) (w iv : Bytes) :
    (s.cbcEncWrites nr w iv).nonceLen =
      s.nonceLen := rfl
@[simp] theorem State.cbcEncWrites_tagInLen (s : State) (nr : Nat) (w iv : Bytes) :
    (s.cbcEncWrites nr w iv).tagInLen =
      s.tagInLen := rfl
@[simp] theorem State.cbcEncWrites_outLen (s : State) (nr : Nat) (w iv : Bytes) :
    (s.cbcEncWrites nr w iv).outLen =
      s.outLen := rfl
@[simp] theorem State.cbcEncWrites_mem (s : State) (nr : Nat) (w iv : Bytes) :
    (s.cbcEncWrites nr w iv).mem =
      (Memory.writeBytes s.resets (s.setSched w).mem 0x8000
        (cbcEncrypt (aesEncrypt w nr) iv (pad s.message))) := rfl
@[simp] theorem State.cbcEncWrites_pendingOp (s : State) (nr : Nat) (w iv : Bytes) :
    (s.cbcEncWrites nr w iv).pendingOp =
      s.pendingOp := rfl
@[simp] theorem State.cbcEncWrites_rngWait (s : State) (nr : Nat) (w iv : Bytes) :
    (s.cbcEncWrites nr w iv).rngWait =
      s.rngWait := rfl
@[simp] theorem State.cbcEncWrites_rngPort (s : State) (nr : Nat) (w iv : Bytes) :
    (s.cbcEncWrites nr w iv).rngPort =
      s.rngPort := rfl
@[simp] theorem State.cbcEncWrites_resets (s : State) (nr : Nat) (w iv : Bytes) :
    (s.cbcEncWrites nr w iv).resets =
      s.resets := rfl
@[simp] theorem State.cbcEncWrites_events (s : State) (nr : Nat) (w iv : Bytes) :
    (s.cbcEncWrites nr w iv).events =
      s.events := rfl
@[simp] theorem State.cbcEncWrites_response (s : State) (nr : Nat) (w iv : Bytes) :
    (s.cbcEncWrites nr w iv).response =
      s.response := rfl

/-! ### takeDraw -/

@[simp] theorem State.takeDraw_cfg (s : State) (draw : Vector Byte 16) : (s.takeDraw draw).cfg = s.cfg := rfl
@[simp] theorem State.takeDraw_ctrl (s : State) (draw : Vector Byte 16) : (s.takeDraw draw).ctrl = s.ctrl := rfl
@[simp] theorem State.takeDraw_status (s : State) (draw : Vector Byte 16) : (s.takeDraw draw).status = s.status := rfl
@[simp] theorem State.takeDraw_intStatus (s : State) (draw : Vector Byte 16) :
    (s.takeDraw draw).intStatus =
      s.intStatus := rfl
@[simp] theorem State.takeDraw_intEnable (s : State) (draw : Vector Byte 16) :
    (s.takeDraw draw).intEnable =
      s.intEnable := rfl
@[simp] theorem State.takeDraw_msgLen (s : State) (draw : Vector Byte 16) : (s.takeDraw draw).msgLen = s.msgLen := rfl
@[simp] theorem State.takeDraw_aadLen (s : State) (draw : Vector Byte 16) : (s.takeDraw draw).aadLen = s.aadLen := rfl
@[simp] theorem State.takeDraw_nonceLen (s : State) (draw : Vector Byte 16) :
    (s.takeDraw draw).nonceLen =
      s.nonceLen := rfl
@[simp] theorem State.takeDraw_tagInLen (s : State) (draw : Vector Byte 16) :
    (s.takeDraw draw).tagInLen =
      s.tagInLen := rfl
@[simp] theorem State.takeDraw_outLen (s : State) (draw : Vector Byte 16) : (s.takeDraw draw).outLen = s.outLen := rfl
@[simp] theorem State.takeDraw_mem (s : State) (draw : Vector Byte 16) :
    (s.takeDraw draw).mem =
      Memory.writeBytes s.resets s.mem 0x120 draw.toList := rfl
@[simp] theorem State.takeDraw_pendingOp (s : State) (draw : Vector Byte 16) :
    (s.takeDraw draw).pendingOp =
      s.pendingOp := rfl
@[simp] theorem State.takeDraw_rngWait (s : State) (draw : Vector Byte 16) : (s.takeDraw draw).rngWait = false := rfl
@[simp] theorem State.takeDraw_rngPort (s : State) (draw : Vector Byte 16) : (s.takeDraw draw).rngPort = none := rfl
@[simp] theorem State.takeDraw_resets (s : State) (draw : Vector Byte 16) : (s.takeDraw draw).resets = s.resets := rfl
@[simp] theorem State.takeDraw_events (s : State) (draw : Vector Byte 16) : (s.takeDraw draw).events = s.events := rfl
@[simp] theorem State.takeDraw_response (s : State) (draw : Vector Byte 16) :
    (s.takeDraw draw).response =
      s.response := rfl

/-! ### setContext -/

@[simp] theorem State.setContext_cfg (s : State) (h j : Bytes) : (s.setContext h j).cfg = s.cfg := rfl
@[simp] theorem State.setContext_ctrl (s : State) (h j : Bytes) : (s.setContext h j).ctrl = s.ctrl := rfl
@[simp] theorem State.setContext_status (s : State) (h j : Bytes) :
    (s.setContext h j).status =
      { s.status with ctxValid := true } := rfl
@[simp] theorem State.setContext_intStatus (s : State) (h j : Bytes) :
    (s.setContext h j).intStatus =
      s.intStatus := rfl
@[simp] theorem State.setContext_intEnable (s : State) (h j : Bytes) :
    (s.setContext h j).intEnable =
      s.intEnable := rfl
@[simp] theorem State.setContext_msgLen (s : State) (h j : Bytes) : (s.setContext h j).msgLen = s.msgLen := rfl
@[simp] theorem State.setContext_aadLen (s : State) (h j : Bytes) : (s.setContext h j).aadLen = s.aadLen := rfl
@[simp] theorem State.setContext_nonceLen (s : State) (h j : Bytes) : (s.setContext h j).nonceLen = s.nonceLen := rfl
@[simp] theorem State.setContext_tagInLen (s : State) (h j : Bytes) : (s.setContext h j).tagInLen = s.tagInLen := rfl
@[simp] theorem State.setContext_outLen (s : State) (h j : Bytes) : (s.setContext h j).outLen = s.outLen := rfl
@[simp] theorem State.setContext_mem (s : State) (h j : Bytes) :
    (s.setContext h j).mem =
      Memory.writeBytes s.resets (Memory.writeBytes s.resets s.mem 0x140 h) 0x150 j := rfl
@[simp] theorem State.setContext_pendingOp (s : State) (h j : Bytes) :
    (s.setContext h j).pendingOp =
      s.pendingOp := rfl
@[simp] theorem State.setContext_rngWait (s : State) (h j : Bytes) : (s.setContext h j).rngWait = s.rngWait := rfl
@[simp] theorem State.setContext_rngPort (s : State) (h j : Bytes) : (s.setContext h j).rngPort = s.rngPort := rfl
@[simp] theorem State.setContext_resets (s : State) (h j : Bytes) : (s.setContext h j).resets = s.resets := rfl
@[simp] theorem State.setContext_events (s : State) (h j : Bytes) : (s.setContext h j).events = s.events := rfl
@[simp] theorem State.setContext_response (s : State) (h j : Bytes) : (s.setContext h j).response = s.response := rfl

/-! ### gcmEncWrites -/

@[simp] theorem State.gcmEncWrites_cfg (s : State) (c t : Bytes) : (s.gcmEncWrites c t).cfg = s.cfg := rfl
@[simp] theorem State.gcmEncWrites_ctrl (s : State) (c t : Bytes) : (s.gcmEncWrites c t).ctrl = s.ctrl := rfl
@[simp] theorem State.gcmEncWrites_status (s : State) (c t : Bytes) : (s.gcmEncWrites c t).status = s.status := rfl
@[simp] theorem State.gcmEncWrites_intStatus (s : State) (c t : Bytes) :
    (s.gcmEncWrites c t).intStatus =
      s.intStatus := rfl
@[simp] theorem State.gcmEncWrites_intEnable (s : State) (c t : Bytes) :
    (s.gcmEncWrites c t).intEnable =
      s.intEnable := rfl
@[simp] theorem State.gcmEncWrites_msgLen (s : State) (c t : Bytes) : (s.gcmEncWrites c t).msgLen = s.msgLen := rfl
@[simp] theorem State.gcmEncWrites_aadLen (s : State) (c t : Bytes) : (s.gcmEncWrites c t).aadLen = s.aadLen := rfl
@[simp] theorem State.gcmEncWrites_nonceLen (s : State) (c t : Bytes) :
    (s.gcmEncWrites c t).nonceLen =
      s.nonceLen := rfl
@[simp] theorem State.gcmEncWrites_tagInLen (s : State) (c t : Bytes) :
    (s.gcmEncWrites c t).tagInLen =
      s.ctrl.tagLen := rfl
@[simp] theorem State.gcmEncWrites_outLen (s : State) (c t : Bytes) : (s.gcmEncWrites c t).outLen = s.outLen := rfl
@[simp] theorem State.gcmEncWrites_mem (s : State) (c t : Bytes) :
    (s.gcmEncWrites c t).mem =
      Memory.writeBytes s.resets (Memory.writeBytes s.resets s.mem 0x8000 c) 0x130
        (t ++ zeros (16 - s.ctrl.tagLen.toNat)) := rfl
@[simp] theorem State.gcmEncWrites_pendingOp (s : State) (c t : Bytes) :
    (s.gcmEncWrites c t).pendingOp =
      s.pendingOp := rfl
@[simp] theorem State.gcmEncWrites_rngWait (s : State) (c t : Bytes) : (s.gcmEncWrites c t).rngWait = s.rngWait := rfl
@[simp] theorem State.gcmEncWrites_rngPort (s : State) (c t : Bytes) : (s.gcmEncWrites c t).rngPort = s.rngPort := rfl
@[simp] theorem State.gcmEncWrites_resets (s : State) (c t : Bytes) : (s.gcmEncWrites c t).resets = s.resets := rfl
@[simp] theorem State.gcmEncWrites_events (s : State) (c t : Bytes) : (s.gcmEncWrites c t).events = s.events := rfl
@[simp] theorem State.gcmEncWrites_response (s : State) (c t : Bytes) :
    (s.gcmEncWrites c t).response =
      s.response := rfl

/-! ### dropContext -/

@[simp] theorem State.dropContext_cfg (s : State) : (s.dropContext).cfg = s.cfg := rfl
@[simp] theorem State.dropContext_ctrl (s : State) : (s.dropContext).ctrl = s.ctrl := rfl
@[simp] theorem State.dropContext_status (s : State) :
    (s.dropContext).status =
      { s.status with ctxValid := false } := rfl
@[simp] theorem State.dropContext_intStatus (s : State) : (s.dropContext).intStatus = s.intStatus := rfl
@[simp] theorem State.dropContext_intEnable (s : State) : (s.dropContext).intEnable = s.intEnable := rfl
@[simp] theorem State.dropContext_msgLen (s : State) : (s.dropContext).msgLen = s.msgLen := rfl
@[simp] theorem State.dropContext_aadLen (s : State) : (s.dropContext).aadLen = s.aadLen := rfl
@[simp] theorem State.dropContext_nonceLen (s : State) : (s.dropContext).nonceLen = s.nonceLen := rfl
@[simp] theorem State.dropContext_tagInLen (s : State) : (s.dropContext).tagInLen = s.tagInLen := rfl
@[simp] theorem State.dropContext_outLen (s : State) : (s.dropContext).outLen = s.outLen := rfl
@[simp] theorem State.dropContext_mem (s : State) : (s.dropContext).mem = s.mem := rfl
@[simp] theorem State.dropContext_pendingOp (s : State) : (s.dropContext).pendingOp = s.pendingOp := rfl
@[simp] theorem State.dropContext_rngWait (s : State) : (s.dropContext).rngWait = s.rngWait := rfl
@[simp] theorem State.dropContext_rngPort (s : State) : (s.dropContext).rngPort = s.rngPort := rfl
@[simp] theorem State.dropContext_resets (s : State) : (s.dropContext).resets = s.resets := rfl
@[simp] theorem State.dropContext_events (s : State) : (s.dropContext).events = s.events := rfl
@[simp] theorem State.dropContext_response (s : State) : (s.dropContext).response = s.response := rfl

/-! ### dropKey -/

@[simp] theorem State.dropKey_cfg (s : State) : (s.dropKey).cfg = s.cfg := rfl
@[simp] theorem State.dropKey_ctrl (s : State) : (s.dropKey).ctrl = s.ctrl := rfl
@[simp] theorem State.dropKey_status (s : State) :
    (s.dropKey).status =
      { s.status with ksValid := false, ctxValid := false } := rfl
@[simp] theorem State.dropKey_intStatus (s : State) : (s.dropKey).intStatus = s.intStatus := rfl
@[simp] theorem State.dropKey_intEnable (s : State) : (s.dropKey).intEnable = s.intEnable := rfl
@[simp] theorem State.dropKey_msgLen (s : State) : (s.dropKey).msgLen = s.msgLen := rfl
@[simp] theorem State.dropKey_aadLen (s : State) : (s.dropKey).aadLen = s.aadLen := rfl
@[simp] theorem State.dropKey_nonceLen (s : State) : (s.dropKey).nonceLen = s.nonceLen := rfl
@[simp] theorem State.dropKey_tagInLen (s : State) : (s.dropKey).tagInLen = s.tagInLen := rfl
@[simp] theorem State.dropKey_outLen (s : State) : (s.dropKey).outLen = s.outLen := rfl
@[simp] theorem State.dropKey_mem (s : State) : (s.dropKey).mem = s.mem := rfl
@[simp] theorem State.dropKey_pendingOp (s : State) : (s.dropKey).pendingOp = s.pendingOp := rfl
@[simp] theorem State.dropKey_rngWait (s : State) : (s.dropKey).rngWait = s.rngWait := rfl
@[simp] theorem State.dropKey_rngPort (s : State) : (s.dropKey).rngPort = s.rngPort := rfl
@[simp] theorem State.dropKey_resets (s : State) : (s.dropKey).resets = s.resets := rfl
@[simp] theorem State.dropKey_events (s : State) : (s.dropKey).events = s.events := rfl
@[simp] theorem State.dropKey_response (s : State) : (s.dropKey).response = s.response := rfl

/-! ### noteBusyErr -/

@[simp] theorem State.noteBusyErr_cfg (s : State) : (s.noteBusyErr).cfg = s.cfg := rfl
@[simp] theorem State.noteBusyErr_ctrl (s : State) : (s.noteBusyErr).ctrl = s.ctrl := rfl
@[simp] theorem State.noteBusyErr_status (s : State) : (s.noteBusyErr).status = s.status := rfl
@[simp] theorem State.noteBusyErr_intStatus (s : State) :
    (s.noteBusyErr).intStatus =
      { s.intStatus with busyErr := true } := rfl
@[simp] theorem State.noteBusyErr_intEnable (s : State) : (s.noteBusyErr).intEnable = s.intEnable := rfl
@[simp] theorem State.noteBusyErr_msgLen (s : State) : (s.noteBusyErr).msgLen = s.msgLen := rfl
@[simp] theorem State.noteBusyErr_aadLen (s : State) : (s.noteBusyErr).aadLen = s.aadLen := rfl
@[simp] theorem State.noteBusyErr_nonceLen (s : State) : (s.noteBusyErr).nonceLen = s.nonceLen := rfl
@[simp] theorem State.noteBusyErr_tagInLen (s : State) : (s.noteBusyErr).tagInLen = s.tagInLen := rfl
@[simp] theorem State.noteBusyErr_outLen (s : State) : (s.noteBusyErr).outLen = s.outLen := rfl
@[simp] theorem State.noteBusyErr_mem (s : State) : (s.noteBusyErr).mem = s.mem := rfl
@[simp] theorem State.noteBusyErr_pendingOp (s : State) : (s.noteBusyErr).pendingOp = s.pendingOp := rfl
@[simp] theorem State.noteBusyErr_rngWait (s : State) : (s.noteBusyErr).rngWait = s.rngWait := rfl
@[simp] theorem State.noteBusyErr_rngPort (s : State) : (s.noteBusyErr).rngPort = s.rngPort := rfl
@[simp] theorem State.noteBusyErr_resets (s : State) : (s.noteBusyErr).resets = s.resets := rfl
@[simp] theorem State.noteBusyErr_events (s : State) : (s.noteBusyErr).events = s.events := rfl
@[simp] theorem State.noteBusyErr_response (s : State) : (s.noteBusyErr).response = s.response := rfl

/-! ### respond -/

@[simp] theorem State.respond_cfg (s : State) (r : BusResponse) : (s.respond r).cfg = s.cfg := rfl
@[simp] theorem State.respond_ctrl (s : State) (r : BusResponse) : (s.respond r).ctrl = s.ctrl := rfl
@[simp] theorem State.respond_status (s : State) (r : BusResponse) : (s.respond r).status = s.status := rfl
@[simp] theorem State.respond_intStatus (s : State) (r : BusResponse) : (s.respond r).intStatus = s.intStatus := rfl
@[simp] theorem State.respond_intEnable (s : State) (r : BusResponse) : (s.respond r).intEnable = s.intEnable := rfl
@[simp] theorem State.respond_msgLen (s : State) (r : BusResponse) : (s.respond r).msgLen = s.msgLen := rfl
@[simp] theorem State.respond_aadLen (s : State) (r : BusResponse) : (s.respond r).aadLen = s.aadLen := rfl
@[simp] theorem State.respond_nonceLen (s : State) (r : BusResponse) : (s.respond r).nonceLen = s.nonceLen := rfl
@[simp] theorem State.respond_tagInLen (s : State) (r : BusResponse) : (s.respond r).tagInLen = s.tagInLen := rfl
@[simp] theorem State.respond_outLen (s : State) (r : BusResponse) : (s.respond r).outLen = s.outLen := rfl
@[simp] theorem State.respond_mem (s : State) (r : BusResponse) : (s.respond r).mem = s.mem := rfl
@[simp] theorem State.respond_pendingOp (s : State) (r : BusResponse) : (s.respond r).pendingOp = s.pendingOp := rfl
@[simp] theorem State.respond_rngWait (s : State) (r : BusResponse) : (s.respond r).rngWait = s.rngWait := rfl
@[simp] theorem State.respond_rngPort (s : State) (r : BusResponse) : (s.respond r).rngPort = s.rngPort := rfl
@[simp] theorem State.respond_resets (s : State) (r : BusResponse) : (s.respond r).resets = s.resets := rfl
@[simp] theorem State.respond_events (s : State) (r : BusResponse) : (s.respond r).events = s.events := rfl
@[simp] theorem State.respond_response (s : State) (r : BusResponse) : (s.respond r).response = some r := rfl

/-! ### invalidateArr and writeReg: the fields that no case changes -/

@[simp] theorem State.invalidateArr_cfg (s : State) (x : Arr) : (s.invalidateArr x).cfg = s.cfg := by
  cases x <;> rfl
@[simp] theorem State.invalidateArr_ctrl (s : State) (x : Arr) : (s.invalidateArr x).ctrl = s.ctrl := by
  cases x <;> rfl
@[simp] theorem State.invalidateArr_intStatus (s : State) (x : Arr) : (s.invalidateArr x).intStatus = s.intStatus := by
  cases x <;> rfl
@[simp] theorem State.invalidateArr_intEnable (s : State) (x : Arr) : (s.invalidateArr x).intEnable = s.intEnable := by
  cases x <;> rfl
@[simp] theorem State.invalidateArr_msgLen (s : State) (x : Arr) : (s.invalidateArr x).msgLen = s.msgLen := by
  cases x <;> rfl
@[simp] theorem State.invalidateArr_aadLen (s : State) (x : Arr) : (s.invalidateArr x).aadLen = s.aadLen := by
  cases x <;> rfl
@[simp] theorem State.invalidateArr_nonceLen (s : State) (x : Arr) : (s.invalidateArr x).nonceLen = s.nonceLen := by
  cases x <;> rfl
@[simp] theorem State.invalidateArr_tagInLen (s : State) (x : Arr) : (s.invalidateArr x).tagInLen = s.tagInLen := by
  cases x <;> rfl
@[simp] theorem State.invalidateArr_outLen (s : State) (x : Arr) : (s.invalidateArr x).outLen = s.outLen := by
  cases x <;> rfl
@[simp] theorem State.invalidateArr_mem (s : State) (x : Arr) : (s.invalidateArr x).mem = s.mem := by
  cases x <;> rfl
@[simp] theorem State.invalidateArr_pendingOp (s : State) (x : Arr) : (s.invalidateArr x).pendingOp = s.pendingOp := by
  cases x <;> rfl
@[simp] theorem State.invalidateArr_rngWait (s : State) (x : Arr) : (s.invalidateArr x).rngWait = s.rngWait := by
  cases x <;> rfl
@[simp] theorem State.invalidateArr_rngPort (s : State) (x : Arr) : (s.invalidateArr x).rngPort = s.rngPort := by
  cases x <;> rfl
@[simp] theorem State.invalidateArr_resets (s : State) (x : Arr) : (s.invalidateArr x).resets = s.resets := by
  cases x <;> rfl
@[simp] theorem State.invalidateArr_events (s : State) (x : Arr) : (s.invalidateArr x).events = s.events := by
  cases x <;> rfl
@[simp] theorem State.invalidateArr_response (s : State) (x : Arr) : (s.invalidateArr x).response = s.response := by
  cases x <;> rfl
@[simp] theorem State.writeReg_cfg (s : State) (v : Word) (r : Reg) : (s.writeReg v r).cfg = s.cfg := by
  cases r <;> rfl
@[simp] theorem State.writeReg_outLen (s : State) (v : Word) (r : Reg) : (s.writeReg v r).outLen = s.outLen := by
  cases r <;> rfl
@[simp] theorem State.writeReg_mem (s : State) (v : Word) (r : Reg) : (s.writeReg v r).mem = s.mem := by
  cases r <;> rfl
@[simp] theorem State.writeReg_pendingOp (s : State) (v : Word) (r : Reg) : (s.writeReg v r).pendingOp = s.pendingOp := by
  cases r <;> rfl
@[simp] theorem State.writeReg_rngWait (s : State) (v : Word) (r : Reg) : (s.writeReg v r).rngWait = s.rngWait := by
  cases r <;> rfl
@[simp] theorem State.writeReg_rngPort (s : State) (v : Word) (r : Reg) : (s.writeReg v r).rngPort = s.rngPort := by
  cases r <;> rfl
@[simp] theorem State.writeReg_resets (s : State) (v : Word) (r : Reg) : (s.writeReg v r).resets = s.resets := by
  cases r <;> rfl
@[simp] theorem State.writeReg_events (s : State) (v : Word) (r : Reg) : (s.writeReg v r).events = s.events := by
  cases r <;> rfl
@[simp] theorem State.writeReg_response (s : State) (v : Word) (r : Reg) : (s.writeReg v r).response = s.response := by
  cases r <;> rfl

/-! ### rngDeliver -/

@[simp] theorem State.rngDeliver_cfg (s : State) (draw : Vector Byte 16) : (s.rngDeliver draw).cfg = s.cfg := by
  unfold State.rngDeliver; split <;> rfl
@[simp] theorem State.rngDeliver_ctrl (s : State) (draw : Vector Byte 16) : (s.rngDeliver draw).ctrl = s.ctrl := by
  unfold State.rngDeliver; split <;> rfl
@[simp] theorem State.rngDeliver_status (s : State) (draw : Vector Byte 16) : (s.rngDeliver draw).status = s.status := by
  unfold State.rngDeliver; split <;> rfl
@[simp] theorem State.rngDeliver_intStatus (s : State) (draw : Vector Byte 16) : (s.rngDeliver draw).intStatus = s.intStatus := by
  unfold State.rngDeliver; split <;> rfl
@[simp] theorem State.rngDeliver_intEnable (s : State) (draw : Vector Byte 16) : (s.rngDeliver draw).intEnable = s.intEnable := by
  unfold State.rngDeliver; split <;> rfl
@[simp] theorem State.rngDeliver_msgLen (s : State) (draw : Vector Byte 16) : (s.rngDeliver draw).msgLen = s.msgLen := by
  unfold State.rngDeliver; split <;> rfl
@[simp] theorem State.rngDeliver_aadLen (s : State) (draw : Vector Byte 16) : (s.rngDeliver draw).aadLen = s.aadLen := by
  unfold State.rngDeliver; split <;> rfl
@[simp] theorem State.rngDeliver_nonceLen (s : State) (draw : Vector Byte 16) : (s.rngDeliver draw).nonceLen = s.nonceLen := by
  unfold State.rngDeliver; split <;> rfl
@[simp] theorem State.rngDeliver_tagInLen (s : State) (draw : Vector Byte 16) : (s.rngDeliver draw).tagInLen = s.tagInLen := by
  unfold State.rngDeliver; split <;> rfl
@[simp] theorem State.rngDeliver_outLen (s : State) (draw : Vector Byte 16) : (s.rngDeliver draw).outLen = s.outLen := by
  unfold State.rngDeliver; split <;> rfl
@[simp] theorem State.rngDeliver_mem (s : State) (draw : Vector Byte 16) : (s.rngDeliver draw).mem = s.mem := by
  unfold State.rngDeliver; split <;> rfl
@[simp] theorem State.rngDeliver_pendingOp (s : State) (draw : Vector Byte 16) : (s.rngDeliver draw).pendingOp = s.pendingOp := by
  unfold State.rngDeliver; split <;> rfl
@[simp] theorem State.rngDeliver_resets (s : State) (draw : Vector Byte 16) : (s.rngDeliver draw).resets = s.resets := by
  unfold State.rngDeliver; split <;> rfl
@[simp] theorem State.rngDeliver_events (s : State) (draw : Vector Byte 16) : (s.rngDeliver draw).events = s.events := by
  unfold State.rngDeliver; split <;> rfl
@[simp] theorem State.rngDeliver_response (s : State) (draw : Vector Byte 16) : (s.rngDeliver draw).response = s.response := by
  unfold State.rngDeliver; split <;> rfl

/-! ### resetNow -/

@[simp] theorem State.resetNow_cfg (s : State) : s.resetNow.cfg = s.cfg := rfl
@[simp] theorem State.resetNow_ctrl (s : State) : s.resetNow.ctrl = State.reset.ctrl := rfl
@[simp] theorem State.resetNow_status (s : State) : s.resetNow.status = State.reset.status := rfl
@[simp] theorem State.resetNow_intStatus (s : State) : s.resetNow.intStatus = State.reset.intStatus := rfl
@[simp] theorem State.resetNow_intEnable (s : State) : s.resetNow.intEnable = State.reset.intEnable := rfl
@[simp] theorem State.resetNow_msgLen (s : State) : s.resetNow.msgLen = State.reset.msgLen := rfl
@[simp] theorem State.resetNow_aadLen (s : State) : s.resetNow.aadLen = State.reset.aadLen := rfl
@[simp] theorem State.resetNow_nonceLen (s : State) : s.resetNow.nonceLen = State.reset.nonceLen := rfl
@[simp] theorem State.resetNow_tagInLen (s : State) : s.resetNow.tagInLen = State.reset.tagInLen := rfl
@[simp] theorem State.resetNow_outLen (s : State) : s.resetNow.outLen = State.reset.outLen := rfl
@[simp] theorem State.resetNow_mem (s : State) : s.resetNow.mem = State.reset.mem := rfl
@[simp] theorem State.resetNow_pendingOp (s : State) : s.resetNow.pendingOp = State.reset.pendingOp := rfl
@[simp] theorem State.resetNow_rngWait (s : State) : s.resetNow.rngWait = State.reset.rngWait := rfl
@[simp] theorem State.resetNow_rngPort (s : State) : s.resetNow.rngPort = s.rngPort := rfl
@[simp] theorem State.resetNow_resets (s : State) : s.resetNow.resets = s.resets + 1 := rfl
@[simp] theorem State.resetNow_events (s : State) : s.resetNow.events = s.events := rfl
@[simp] theorem State.resetNow_response (s : State) : s.resetNow.response = State.reset.response := rfl

/-- A failure is a completion with OUT_LEN 0 (R71). -/
theorem State.failCommand_eq (s : State) (op : BitVec 4) (code : ErrCode) :
    s.failCommand op code = s.complete op code 0 := rfl

end Sys2Proof.Machine
end

