-- ==== Sys2Proof/Laws/Exec.lean ====
section
/-! SUPPORT. What the shared operations of the commands can do: the completion step, the key expansion and the context check,
each said once; and how arrays read after the named writes. -/

namespace Sys2Proof.Machine

/-! ### Control -/

/-- Everything a completion step can do (R70). -/
theorem finish_eq_next (op : BitVec 4) (s t : State) (r : ExecResult) :
    finish op s r = .next t ↔
      (∃ u n, r = .ok u n ∧ t = u.complete op .ok n) ∨
      (∃ code, r = .fail code ∧ t = s.failCommand op code) ∨
      (r = .waitRng ∧ t = { s with rngWait := true }) := by
  cases r <;> simp [finish, eq_comm]

/-- A completion step never ends in a fault. -/
theorem finish_ne_fault (op : BitVec 4) (s : State) (r : ExecResult) (f : Fault) : finish op s r ≠ .fault f := by
  cases r <;> simp [finish]

/-- `KeyBytes` is undefined for 0b11 alone (R90). -/
theorem keyBytes_eq_none (k : BitVec 2) : keyBytes k = none ↔ k = 0b11 := by
  revert k; decide

theorem keyBytes_cases (k : BitVec 2) (nk : Nat) (h : keyBytes k = some nk) : nk = 16 ∨ nk = 24 ∨ nk = 32 := by
  revert h; unfold keyBytes; split_ifs <;> simp +contextual [eq_comm]

/-- KEYLEN is 0b11 or names a key size (R90). -/
theorem keyLen_cases (k : BitVec 2) : k = 0b11 ∨ ∃ nk, keyBytes k = some nk := by
  cases h : keyBytes k with
  | none => exact .inl ((keyBytes_eq_none k).1 h)
  | some nk => exact .inr ⟨nk, rfl⟩

theorem keyLen_ne (k : BitVec 2) (nk : Nat) (h : keyBytes k = some nk) : k ≠ 0b11 := by
  intro hk; rw [(keyBytes_eq_none k).2 hk] at h; cases h

/-- A key-using command with a legal KEYLEN goes on with Nr and the schedule (R95). -/
theorem withKey_some (s : State) (f : Nat → Bytes → ExecResult) (nk : Nat) (h : keyBytes s.ctrl.keyLen = some nk) :
    withKey s f = f (rounds nk) (expandKey (s.key nk) nk) := by
  simp [withKey, State.expand, h]

/-- A key-using command with KEYLEN = 0b11 fails with ERR_KEYLEN (R95). -/
theorem withKey_none (s : State) (f : Nat → Bytes → ExecResult) (h : s.ctrl.keyLen = 0b11) :
    withKey s f = .fail .keyLen := by
  simp [withKey, State.expand, (keyBytes_eq_none _).2 h]

/-- What a key-using command can be. -/
theorem withKey_cases (s : State) (f : Nat → Bytes → ExecResult) :
    (∃ nk, keyBytes s.ctrl.keyLen = some nk ∧ withKey s f = f (rounds nk) (expandKey (s.key nk) nk)) ∨
    (s.ctrl.keyLen = 0b11 ∧ withKey s f = .fail .keyLen) := by
  cases h : keyBytes s.ctrl.keyLen with
  | some nk => exact .inl ⟨nk, rfl, withKey_some s f nk h⟩
  | none => exact .inr ⟨(keyBytes_eq_none _).1 h, withKey_none s f ((keyBytes_eq_none _).1 h)⟩

/-- What a command of the GCM context can be (R127, R128). -/
theorem withContext_cases (s : State) (f : (Bytes → Bytes) → ExecResult) :
    (s.status.ctxValid = false ∧ withContext s f = .fail .noCtx) ∨
    (s.status.ctxValid = true ∧ s.cfg.maxMsg < s.msgLen.toNat ∧ withContext s f = .fail .len) ∨
    (s.status.ctxValid = true ∧ s.msgLen.toNat ≤ s.cfg.maxMsg ∧
      ((∃ nk, keyBytes s.ctrl.keyLen = some nk ∧ withContext s f = f (aesEncrypt s.sched (rounds nk))) ∨
       (s.ctrl.keyLen = 0b11 ∧ withContext s f = .refuse .keyLenUndefined))) := by
  unfold withContext
  by_cases h1 : s.status.ctxValid = false
  · simp [h1]
  · have h1' : s.status.ctxValid = true := by simpa using h1
    by_cases h2 : s.msgLen.toNat > s.cfg.maxMsg
    · simp [h1', h2]
    · refine .inr (.inr ⟨h1', by omega, ?_⟩)
      cases h : keyBytes s.ctrl.keyLen with
      | some nk => exact .inl ⟨nk, rfl, by simp [h1', h2]⟩
      | none => exact .inr ⟨(keyBytes_eq_none _).1 h, by simp [h1', h2]⟩

/-! ### Arrays after the named writes -/

theorem State.byteAt_storeBytes (s : State) (hs : s.memWf = true) (a : Nat) (bs : Bytes) (x : Nat) :
    (s.storeBytes a bs).byteAt x = if a ≤ x ∧ x < a + bs.length then bs.getD (x - a) 0 else s.byteAt x :=
  Memory.read_writeBytes s.resets s.mem a bs hs x

theorem State.memWf_storeBytes (s : State) (hs : s.memWf = true) (a : Nat) (bs : Bytes) :
    (s.storeBytes a bs).memWf = true :=
  Memory.writeBytes_wf s.resets s.mem a bs hs

theorem State.memWf_setArr (s : State) (hs : s.memWf = true) (x : Arr) (bs : Bytes) : (s.setArr x bs).memWf = true :=
  State.memWf_storeBytes s hs x.base bs

theorem State.memWf_setSched (s : State) (hs : s.memWf = true) (w : Bytes) : (s.setSched w).memWf = true :=
  State.memWf_setArr s hs .sched (schedImage w)

/-- What a byte reads as after an array is written. -/
theorem State.byteAt_setArr (s : State) (hs : s.memWf = true) (x : Arr) (bs : Bytes) (a : Nat) :
    (s.setArr x bs).byteAt a = if x.base ≤ a ∧ a < x.base + bs.length then bs.getD (a - x.base) 0 else s.byteAt a :=
  State.byteAt_storeBytes s hs x.base bs a

/-- What a byte reads as after SCHED is written. -/
theorem State.byteAt_setSched (s : State) (hs : s.memWf = true) (w : Bytes) (a : Nat) :
    (s.setSched w).byteAt a =
      if 0x200 ≤ a ∧ a < 0x200 + (schedImage w).length then (schedImage w).getD (a - 0x200) 0 else s.byteAt a :=
  State.byteAt_setArr s hs .sched (schedImage w) a

/-- An array slice reads back what was written at its base. -/
theorem State.arrSlice_setArr_same (s : State) (hs : s.memWf = true) (x : Arr) (bs : Bytes) (n : Nat)
    (h : n = bs.length) : (s.setArr x bs).arrSlice x 0 n = bs := by
  subst h
  exact Memory.readBytes_writeBytes_same s.resets s.mem x.base bs hs

/-- An array slice apart from the written bytes reads as before. -/
theorem State.arrSlice_setArr_apart (s : State) (hs : s.memWf = true) (x y : Arr) (bs : Bytes) (i n : Nat)
    (h : y.base + i + n ≤ x.base ∨ x.base + bs.length ≤ y.base + i) :
    (s.setArr x bs).arrSlice y i n = s.arrSlice y i n :=
  Memory.readBytes_writeBytes_apart s.resets s.mem x.base bs hs (y.base + i) n h

/-- An array slice depends on its bytes alone. -/
theorem State.arrSlice_congr (s t : State) (x : Arr) (i n : Nat)
    (h : ∀ a, x.base + i ≤ a → a < x.base + i + n → t.byteAt a = s.byteAt a) :
    t.arrSlice x i n = s.arrSlice x i n :=
  Memory.readBytes_congr t.resets s.resets t.mem s.mem (x.base + i) n h

@[simp] theorem State.arrSlice_length (s : State) (x : Arr) (i n : Nat) : (s.arrSlice x i n).length = n := by
  simp [State.arrSlice]

/-! ### Memory under the updates of several fields -/

@[simp] theorem State.byteAt_complete (s : State) (op : BitVec 4) (code : ErrCode) (n a : Nat) :
    (s.complete op code n).byteAt a = s.byteAt a := rfl

@[simp] theorem State.arrSlice_complete (s : State) (op : BitVec 4) (code : ErrCode) (n : Nat) (x : Arr) (i k : Nat) :
    (s.complete op code n).arrSlice x i k = s.arrSlice x i k := rfl

@[simp] theorem State.memWf_complete (s : State) (op : BitVec 4) (code : ErrCode) (n : Nat) :
    (s.complete op code n).memWf = s.memWf := rfl

theorem State.byteAt_takeDraw (s : State) (draw : Vector Byte 16) (a : Nat) :
    (s.takeDraw draw).byteAt a = (s.setArr .iv draw.toList).byteAt a := rfl

theorem State.arrSlice_takeDraw (s : State) (draw : Vector Byte 16) (x : Arr) (i k : Nat) :
    (s.takeDraw draw).arrSlice x i k = (s.setArr .iv draw.toList).arrSlice x i k := rfl

theorem State.memWf_takeDraw (s : State) (draw : Vector Byte 16) :
    (s.takeDraw draw).memWf = (s.setArr .iv draw.toList).memWf := rfl

theorem State.byteAt_setContext (s : State) (h j : Bytes) (a : Nat) :
    (s.setContext h j).byteAt a = ((s.setArr .hsub h).setArr .j0 j).byteAt a := rfl

theorem State.arrSlice_setContext (s : State) (h j : Bytes) (x : Arr) (i k : Nat) :
    (s.setContext h j).arrSlice x i k = ((s.setArr .hsub h).setArr .j0 j).arrSlice x i k := rfl

theorem State.memWf_setContext (s : State) (h j : Bytes) :
    (s.setContext h j).memWf = ((s.setArr .hsub h).setArr .j0 j).memWf := rfl

theorem State.byteAt_gcmEncWrites (s : State) (c t : Bytes) (a : Nat) :
    (s.gcmEncWrites c t).byteAt a =
      ((s.setArr .outBuf c).setArr .tag (t ++ zeros (16 - s.ctrl.tagLen.toNat))).byteAt a := rfl

theorem State.arrSlice_gcmEncWrites (s : State) (c t : Bytes) (x : Arr) (i k : Nat) :
    (s.gcmEncWrites c t).arrSlice x i k =
      ((s.setArr .outBuf c).setArr .tag (t ++ zeros (16 - s.ctrl.tagLen.toNat))).arrSlice x i k := rfl

theorem State.memWf_gcmEncWrites (s : State) (c t : Bytes) :
    (s.gcmEncWrites c t).memWf =
      ((s.setArr .outBuf c).setArr .tag (t ++ zeros (16 - s.ctrl.tagLen.toNat))).memWf := rfl

end Sys2Proof.Machine
end

