-- ==== Sys2Proof/Laws/Commands.lean ====
section
/-! SUPPORT. One equation for each way each command can end: the next state as the shared operations build it. The provers cite
these and unfold no command. -/

namespace Sys2Proof.Machine

/-! ### Commands that compute nothing -/

theorem exec_nop (s : State) : exec .nop s = .next s := rfl

theorem exec_reserved9 (s : State) : exec .reserved9 s = .next (s.failCommand 0x9 .badOp) := rfl

theorem exec_reservedAB (s : State) (op : BitVec 4) : exec (.reservedAB op) s = .next (s.failCommand op .badOp) := rfl

theorem exec_reservedCF (s : State) (op : BitVec 4) : exec (.reservedCF op) s = .next (s.failCommand op .badOp) := rfl

/-! ### The key schedule and single blocks -/

theorem exec_keyexp_ok (s : State) (nk : Nat) (h : keyBytes s.ctrl.keyLen = some nk) :
    exec .keyexp s = .next ((s.setSched (expandKey (s.key nk) nk)).complete 0x1 .ok (schedLen nk)) := by
  rw [exec, execKeyexp, runKeyexp, withKey_some _ _ _ h]; rfl

theorem exec_keyexp_keyLen (s : State) (h : s.ctrl.keyLen = 0b11) :
    exec .keyexp s = .next (s.failCommand 0x1 .keyLen) := by
  rw [exec, execKeyexp, runKeyexp, withKey_none _ _ h]; rfl

theorem exec_encBlock_ok (s : State) (nk : Nat) (h : keyBytes s.ctrl.keyLen = some nk) :
    exec .encBlock s = .next (((s.setSched (expandKey (s.key nk) nk)).setArr .outBuf
      (aesEncrypt (expandKey (s.key nk) nk) (rounds nk) (s.input 16))).complete 0x2 .ok 16) := by
  rw [exec, execEncBlock, runEncBlock, withKey_some _ _ _ h]; rfl

theorem exec_encBlock_keyLen (s : State) (h : s.ctrl.keyLen = 0b11) :
    exec .encBlock s = .next (s.failCommand 0x2 .keyLen) := by
  rw [exec, execEncBlock, runEncBlock, withKey_none _ _ h]; rfl

theorem exec_decBlock_ok (s : State) (nk : Nat) (h : keyBytes s.ctrl.keyLen = some nk) :
    exec .decBlock s = .next (((s.setSched (expandKey (s.key nk) nk)).setArr .outBuf
      (aesDecrypt (expandKey (s.key nk) nk) (rounds nk) (s.input 16))).complete 0x3 .ok 16) := by
  rw [exec, execDecBlock, runDecBlock, withKey_some _ _ _ h]; rfl

theorem exec_decBlock_keyLen (s : State) (h : s.ctrl.keyLen = 0b11) :
    exec .decBlock s = .next (s.failCommand 0x3 .keyLen) := by
  rw [exec, execDecBlock, runDecBlock, withKey_none _ _ h]; rfl

/-! ### CBC -/

theorem exec_cbcEnc_ok (s : State) (nk : Nat) (h : keyBytes s.ctrl.keyLen = some nk)
    (hl : s.msgLen.toNat ≤ s.cfg.maxMsg) (hg : s.ctrl.ivGen = false) :
    exec .cbcEnc s = .next ((s.cbcEncWrites (rounds nk) (expandKey (s.key nk) nk) s.iv).complete 0x4 .ok
      (paddedLen s.msgLen.toNat)) := by
  rw [exec, execCbcEnc, runCbcEnc, withKey_some _ _ _ h, if_neg (by omega), if_neg (by simp [hg])]; rfl

theorem exec_cbcEnc_draw (s : State) (nk : Nat) (draw : Vector Byte 16) (h : keyBytes s.ctrl.keyLen = some nk)
    (hl : s.msgLen.toNat ≤ s.cfg.maxMsg) (hg : s.ctrl.ivGen = true) (hp : s.rngPort = some draw) :
    exec .cbcEnc s = .next (((s.cbcEncWrites (rounds nk) (expandKey (s.key nk) nk) draw.toList).takeDraw draw).complete
      0x4 .ok (paddedLen s.msgLen.toNat)) := by
  simp only [exec, execCbcEnc, runCbcEnc, withKey_some _ _ _ h, if_neg (show ¬s.msgLen.toNat > s.cfg.maxMsg by omega),
    if_pos hg, hp]; rfl

theorem exec_cbcEnc_wait (s : State) (hk : s.ctrl.keyLen ≠ 0b11) (hl : s.msgLen.toNat ≤ s.cfg.maxMsg)
    (hg : s.ctrl.ivGen = true) (hp : s.rngPort = none) : exec .cbcEnc s = .next { s with rngWait := true } := by
  obtain ⟨nk, h⟩ := Option.ne_none_iff_exists'.1 (mt (keyBytes_eq_none _).1 hk)
  have hr : runCbcEnc s = .waitRng := by
    simp only [runCbcEnc, withKey_some _ _ _ h, if_neg (show ¬s.msgLen.toNat > s.cfg.maxMsg by omega), if_pos hg, hp]
  rw [exec, execCbcEnc, hr]; rfl

theorem exec_cbcEnc_keyLen (s : State) (h : s.ctrl.keyLen = 0b11) :
    exec .cbcEnc s = .next (s.failCommand 0x4 .keyLen) := by
  rw [exec, execCbcEnc, runCbcEnc, withKey_none _ _ h]; rfl

theorem exec_cbcEnc_len (s : State) (hk : s.ctrl.keyLen ≠ 0b11) (hl : s.cfg.maxMsg < s.msgLen.toNat) :
    exec .cbcEnc s = .next (s.failCommand 0x4 .len) := by
  obtain ⟨nk, h⟩ := Option.ne_none_iff_exists'.1 (mt (keyBytes_eq_none _).1 hk)
  rw [exec, execCbcEnc, runCbcEnc, withKey_some _ _ _ h, if_pos hl]; rfl

theorem exec_cbcDec_ok (s : State) (nk : Nat) (m : Bytes) (h : keyBytes s.ctrl.keyLen = some nk)
    (hl : ¬(s.msgLen.toNat = 0 ∨ s.msgLen.toNat % 16 ≠ 0 ∨ s.msgLen.toNat > s.cfg.maxMsg))
    (hm : unpad (cbcDecrypt (aesDecrypt (expandKey (s.key nk) nk) (rounds nk)) s.iv s.message) = some m) :
    exec .cbcDec s = .next (((s.setSched (expandKey (s.key nk) nk)).setArr .outBuf m).complete 0x5 .ok m.length) := by
  simp only [exec, execCbcDec, runCbcDec, withKey_some _ _ _ h, if_neg hl, hm]; rfl

theorem exec_cbcDec_pad (s : State) (nk : Nat) (h : keyBytes s.ctrl.keyLen = some nk)
    (hl : ¬(s.msgLen.toNat = 0 ∨ s.msgLen.toNat % 16 ≠ 0 ∨ s.msgLen.toNat > s.cfg.maxMsg))
    (hm : unpad (cbcDecrypt (aesDecrypt (expandKey (s.key nk) nk) (rounds nk)) s.iv s.message) = none) :
    exec .cbcDec s = .next (s.failCommand 0x5 .pad) := by
  simp only [exec, execCbcDec, runCbcDec, withKey_some _ _ _ h, if_neg hl, hm]; rfl

theorem exec_cbcDec_keyLen (s : State) (h : s.ctrl.keyLen = 0b11) :
    exec .cbcDec s = .next (s.failCommand 0x5 .keyLen) := by
  rw [exec, execCbcDec, runCbcDec, withKey_none _ _ h]; rfl

theorem exec_cbcDec_len (s : State) (hk : s.ctrl.keyLen ≠ 0b11)
    (hl : s.msgLen.toNat = 0 ∨ s.msgLen.toNat % 16 ≠ 0 ∨ s.msgLen.toNat > s.cfg.maxMsg) :
    exec .cbcDec s = .next (s.failCommand 0x5 .len) := by
  obtain ⟨nk, h⟩ := Option.ne_none_iff_exists'.1 (mt (keyBytes_eq_none _).1 hk)
  rw [exec, execCbcDec, runCbcDec, withKey_some _ _ _ h, if_pos hl]; rfl

/-! ### GCM -/

theorem exec_gcmInit_ok (s : State) (nk : Nat) (h : keyBytes s.ctrl.keyLen = some nk)
    (ht : ¬(s.ctrl.tagLen.toNat < 1 ∨ s.ctrl.tagLen.toNat > 16))
    (hn : ¬(s.nonceLen.toNat = 0 ∨ s.nonceLen.toNat > s.cfg.maxNonce)) (ha : s.aadLen.toNat ≤ s.cfg.maxAad) :
    exec .gcmInit s = .next (((s.setSched (expandKey (s.key nk) nk)).setContext
      (aesEncrypt (expandKey (s.key nk) nk) (rounds nk) (zeros 16))
      (deriveJ0 (aesEncrypt (expandKey (s.key nk) nk) (rounds nk) (zeros 16)) s.nonce)).complete 0x6 .ok 0) := by
  rw [exec, execGcmInit, runGcmInit, withKey_some _ _ _ h, if_neg ht, if_neg hn, if_neg (by omega)]; rfl

theorem exec_gcmInit_keyLen (s : State) (h : s.ctrl.keyLen = 0b11) :
    exec .gcmInit s = .next (s.dropContext.failCommand 0x6 .keyLen) := by
  rw [exec, execGcmInit, runGcmInit, withKey_none _ _ h]; rfl

theorem exec_gcmInit_tagLen (s : State) (hk : s.ctrl.keyLen ≠ 0b11)
    (ht : s.ctrl.tagLen.toNat < 1 ∨ s.ctrl.tagLen.toNat > 16) :
    exec .gcmInit s = .next (s.dropContext.failCommand 0x6 .tagLen) := by
  obtain ⟨nk, h⟩ := Option.ne_none_iff_exists'.1 (mt (keyBytes_eq_none _).1 hk)
  rw [exec, execGcmInit, runGcmInit, withKey_some _ _ _ h, if_pos ht]; rfl

theorem exec_gcmInit_nonceLen (s : State) (hk : s.ctrl.keyLen ≠ 0b11)
    (ht : ¬(s.ctrl.tagLen.toNat < 1 ∨ s.ctrl.tagLen.toNat > 16))
    (hn : s.nonceLen.toNat = 0 ∨ s.nonceLen.toNat > s.cfg.maxNonce) :
    exec .gcmInit s = .next (s.dropContext.failCommand 0x6 .nonceLen) := by
  obtain ⟨nk, h⟩ := Option.ne_none_iff_exists'.1 (mt (keyBytes_eq_none _).1 hk)
  rw [exec, execGcmInit, runGcmInit, withKey_some _ _ _ h, if_neg ht, if_pos hn]; rfl

theorem exec_gcmInit_aadLen (s : State) (hk : s.ctrl.keyLen ≠ 0b11)
    (ht : ¬(s.ctrl.tagLen.toNat < 1 ∨ s.ctrl.tagLen.toNat > 16))
    (hn : ¬(s.nonceLen.toNat = 0 ∨ s.nonceLen.toNat > s.cfg.maxNonce)) (ha : s.cfg.maxAad < s.aadLen.toNat) :
    exec .gcmInit s = .next (s.dropContext.failCommand 0x6 .aadLen) := by
  obtain ⟨nk, h⟩ := Option.ne_none_iff_exists'.1 (mt (keyBytes_eq_none _).1 hk)
  rw [exec, execGcmInit, runGcmInit, withKey_some _ _ _ h, if_neg ht, if_neg hn, if_pos ha]; rfl

theorem withContext_ok (s : State) (f : (Bytes → Bytes) → ExecResult) (nk : Nat)
    (h : keyBytes s.ctrl.keyLen = some nk) (hc : s.status.ctxValid = true) (hl : s.msgLen.toNat ≤ s.cfg.maxMsg) :
    withContext s f = f (aesEncrypt s.sched (rounds nk)) := by
  rw [withContext, if_neg (by simp [hc]), if_neg (by omega), h]

theorem exec_gcmEnc_ok (s : State) (nk : Nat) (h : keyBytes s.ctrl.keyLen = some nk) (hc : s.status.ctxValid = true)
    (hl : s.msgLen.toNat ≤ s.cfg.maxMsg) :
    exec .gcmEnc s = .next ((s.gcmEncWrites (gctr (aesEncrypt s.sched (rounds nk)) (inc32 s.j0) s.message)
      (s.computeTag (aesEncrypt s.sched (rounds nk))
        (gctr (aesEncrypt s.sched (rounds nk)) (inc32 s.j0) s.message))).complete 0x7 .ok s.msgLen.toNat) := by
  rw [exec, execGcmEnc, runGcmEnc, withContext_ok s _ nk h hc hl]; rfl

theorem exec_gcmEnc_noCtx (s : State) (hc : s.status.ctxValid = false) :
    exec .gcmEnc s = .next (s.failCommand 0x7 .noCtx) := by
  rw [exec, execGcmEnc, runGcmEnc, withContext, if_pos hc]; rfl

theorem exec_gcmEnc_len (s : State) (hc : s.status.ctxValid = true) (hl : s.cfg.maxMsg < s.msgLen.toNat) :
    exec .gcmEnc s = .next (s.failCommand 0x7 .len) := by
  rw [exec, execGcmEnc, runGcmEnc, withContext, if_neg (by simp [hc]), if_pos hl]; rfl

theorem exec_gcmDec_ok (s : State) (nk : Nat) (h : keyBytes s.ctrl.keyLen = some nk) (hc : s.status.ctxValid = true)
    (hl : s.msgLen.toNat ≤ s.cfg.maxMsg)
    (ht : tagOk s.ctrl.tagCmp s.ctrl.tagLen.toNat (s.computeTag (aesEncrypt s.sched (rounds nk)) s.message) s.tag
      s.tagInLen.toNat = true) :
    exec .gcmDec s = .next ((s.setArr .outBuf (gctr (aesEncrypt s.sched (rounds nk)) (inc32 s.j0) s.message)).complete
      0x8 .ok s.msgLen.toNat) := by
  rw [exec, execGcmDec, runGcmDec, withContext_ok s _ nk h hc hl, if_pos ht]; rfl

theorem exec_gcmDec_auth (s : State) (nk : Nat) (h : keyBytes s.ctrl.keyLen = some nk) (hc : s.status.ctxValid = true)
    (hl : s.msgLen.toNat ≤ s.cfg.maxMsg)
    (ht : tagOk s.ctrl.tagCmp s.ctrl.tagLen.toNat (s.computeTag (aesEncrypt s.sched (rounds nk)) s.message) s.tag
      s.tagInLen.toNat = false) :
    exec .gcmDec s = .next (s.failCommand 0x8 .auth) := by
  rw [exec, execGcmDec, runGcmDec, withContext_ok s _ nk h hc hl, if_neg (by simp [ht])]; rfl

theorem exec_gcmDec_noCtx (s : State) (hc : s.status.ctxValid = false) :
    exec .gcmDec s = .next (s.failCommand 0x8 .noCtx) := by
  rw [exec, execGcmDec, runGcmDec, withContext, if_pos hc]; rfl

theorem exec_gcmDec_len (s : State) (hc : s.status.ctxValid = true) (hl : s.cfg.maxMsg < s.msgLen.toNat) :
    exec .gcmDec s = .next (s.failCommand 0x8 .len) := by
  rw [exec, execGcmDec, runGcmDec, withContext, if_neg (by simp [hc]), if_pos hl]; rfl

/-! ### Everything a command can do -/

/-- The success writes of the commands that use the key, with the key's bytes `nk` (R96, R110, R111, R116, R117, R126 to R128):
`Success nk i s u n` says that command `i` from `s` writes `u` with OUT_LEN `n`. -/
inductive Success (nk : Nat) (s : State) : Instr → State → Nat → Prop where
  | keyexp : Success nk s .keyexp (s.setSched (expandKey (s.key nk) nk)) (schedLen nk)
  | encBlock : Success nk s .encBlock ((s.setSched (expandKey (s.key nk) nk)).setArr .outBuf
      (aesEncrypt (expandKey (s.key nk) nk) (rounds nk) (s.input 16))) 16
  | decBlock : Success nk s .decBlock ((s.setSched (expandKey (s.key nk) nk)).setArr .outBuf
      (aesDecrypt (expandKey (s.key nk) nk) (rounds nk) (s.input 16))) 16
  | cbcEnc (hl : s.msgLen.toNat ≤ s.cfg.maxMsg) (hg : s.ctrl.ivGen = false) :
      Success nk s .cbcEnc (s.cbcEncWrites (rounds nk) (expandKey (s.key nk) nk) s.iv) (paddedLen s.msgLen.toNat)
  | cbcEncDraw (draw : Vector Byte 16) (hl : s.msgLen.toNat ≤ s.cfg.maxMsg) (hg : s.ctrl.ivGen = true)
      (hp : s.rngPort = some draw) : Success nk s .cbcEnc
        ((s.cbcEncWrites (rounds nk) (expandKey (s.key nk) nk) draw.toList).takeDraw draw) (paddedLen s.msgLen.toNat)
  | cbcDec (m : Bytes) (hl : s.msgLen.toNat ≤ s.cfg.maxMsg)
      (hm : unpad (cbcDecrypt (aesDecrypt (expandKey (s.key nk) nk) (rounds nk)) s.iv s.message) = some m) :
      Success nk s .cbcDec ((s.setSched (expandKey (s.key nk) nk)).setArr .outBuf m) m.length
  | gcmInit (h1 : 1 ≤ s.ctrl.tagLen.toNat) (h2 : s.ctrl.tagLen.toNat ≤ 16) (h3 : 1 ≤ s.nonceLen.toNat)
      (h4 : s.nonceLen.toNat ≤ s.cfg.maxNonce) (h5 : s.aadLen.toNat ≤ s.cfg.maxAad) :
      Success nk s .gcmInit ((s.setSched (expandKey (s.key nk) nk)).setContext
        (aesEncrypt (expandKey (s.key nk) nk) (rounds nk) (zeros 16))
        (deriveJ0 (aesEncrypt (expandKey (s.key nk) nk) (rounds nk) (zeros 16)) s.nonce)) 0
  | gcmEnc (hc : s.status.ctxValid = true) (hl : s.msgLen.toNat ≤ s.cfg.maxMsg) :
      Success nk s .gcmEnc (s.gcmEncWrites (gctr (aesEncrypt s.sched (rounds nk)) (inc32 s.j0) s.message)
        (s.computeTag (aesEncrypt s.sched (rounds nk))
          (gctr (aesEncrypt s.sched (rounds nk)) (inc32 s.j0) s.message))) s.msgLen.toNat
  | gcmDec (hc : s.status.ctxValid = true) (hl : s.msgLen.toNat ≤ s.cfg.maxMsg)
      (ht : tagOk s.ctrl.tagCmp s.ctrl.tagLen.toNat (s.computeTag (aesEncrypt s.sched (rounds nk)) s.message) s.tag
        s.tagInLen.toNat = true) :
      Success nk s .gcmDec (s.setArr .outBuf (gctr (aesEncrypt s.sched (rounds nk)) (inc32 s.j0) s.message))
        s.msgLen.toNat

/-- Every way a command can answer a next state. -/
inductive Ends (s : State) : Instr → State → Prop where
  | nop : Ends s .nop s
  | failed (i : Instr) (code : ErrCode) (hi : i ≠ .nop) (hg : i ≠ .gcmInit) (hc : code ≠ .ok) (hn : code ≠ .internal) :
      Ends s i (s.failCommand (opcode i) code)
  | failedInit (code : ErrCode) (hc : code ≠ .ok) (hn : code ≠ .internal) :
      Ends s .gcmInit (s.dropContext.failCommand 0x6 code)
  | waits (hg : s.ctrl.ivGen = true) (hp : s.rngPort = none) : Ends s .cbcEnc { s with rngWait := true }
  | ok (nk : Nat) (i : Instr) (u : State) (n : Nat) (hk : keyBytes s.ctrl.keyLen = some nk) (hs : Success nk s i u n) :
      Ends s i (u.complete (opcode i) .ok n)

/-- Everything a command can do when it answers a next state. -/
theorem exec_ends (i : Instr) (s t : State) (h : exec i s = .next t) : Ends s i t := by
  cases i with
  | nop => cases (exec_nop s).symm.trans h; exact .nop
  | reserved9 => cases (exec_reserved9 s).symm.trans h; exact .failed .reserved9 .badOp nofun nofun nofun nofun
  | reservedAB op =>
    cases (exec_reservedAB s op).symm.trans h; exact .failed (.reservedAB op) .badOp nofun nofun nofun nofun
  | reservedCF op =>
    cases (exec_reservedCF s op).symm.trans h; exact .failed (.reservedCF op) .badOp nofun nofun nofun nofun
  | keyexp =>
    rcases keyLen_cases s.ctrl.keyLen with hk | ⟨nk, hk⟩
    · cases (exec_keyexp_keyLen s hk).symm.trans h; exact .failed .keyexp .keyLen nofun nofun nofun nofun
    · cases (exec_keyexp_ok s nk hk).symm.trans h; exact .ok nk .keyexp _ _ hk .keyexp
  | encBlock =>
    rcases keyLen_cases s.ctrl.keyLen with hk | ⟨nk, hk⟩
    · cases (exec_encBlock_keyLen s hk).symm.trans h; exact .failed .encBlock .keyLen nofun nofun nofun nofun
    · cases (exec_encBlock_ok s nk hk).symm.trans h; exact .ok nk .encBlock _ _ hk .encBlock
  | decBlock =>
    rcases keyLen_cases s.ctrl.keyLen with hk | ⟨nk, hk⟩
    · cases (exec_decBlock_keyLen s hk).symm.trans h; exact .failed .decBlock .keyLen nofun nofun nofun nofun
    · cases (exec_decBlock_ok s nk hk).symm.trans h; exact .ok nk .decBlock _ _ hk .decBlock
  | cbcEnc =>
    rcases keyLen_cases s.ctrl.keyLen with hk | ⟨nk, hk⟩
    · cases (exec_cbcEnc_keyLen s hk).symm.trans h; exact .failed .cbcEnc .keyLen nofun nofun nofun nofun
    · have hk' := keyLen_ne _ nk hk
      rcases Nat.lt_or_ge s.cfg.maxMsg s.msgLen.toNat with hl | hl
      · cases (exec_cbcEnc_len s hk' hl).symm.trans h; exact .failed .cbcEnc .len nofun nofun nofun nofun
      · cases hg : s.ctrl.ivGen with
        | false => cases (exec_cbcEnc_ok s nk hk hl hg).symm.trans h; exact .ok nk .cbcEnc _ _ hk (.cbcEnc hl hg)
        | true =>
          cases hp : s.rngPort with
          | none => cases (exec_cbcEnc_wait s hk' hl hg hp).symm.trans h; exact .waits hg hp
          | some draw =>
            cases (exec_cbcEnc_draw s nk draw hk hl hg hp).symm.trans h
            exact .ok nk .cbcEnc _ _ hk (.cbcEncDraw draw hl hg hp)
  | cbcDec =>
    rcases keyLen_cases s.ctrl.keyLen with hk | ⟨nk, hk⟩
    · cases (exec_cbcDec_keyLen s hk).symm.trans h; exact .failed .cbcDec .keyLen nofun nofun nofun nofun
    · by_cases hl : s.msgLen.toNat = 0 ∨ s.msgLen.toNat % 16 ≠ 0 ∨ s.msgLen.toNat > s.cfg.maxMsg
      · cases (exec_cbcDec_len s (keyLen_ne _ nk hk) hl).symm.trans h
        exact .failed .cbcDec .len nofun nofun nofun nofun
      · cases hm : unpad (cbcDecrypt (aesDecrypt (expandKey (s.key nk) nk) (rounds nk)) s.iv s.message) with
        | none => cases (exec_cbcDec_pad s nk hk hl hm).symm.trans h; exact .failed .cbcDec .pad nofun nofun nofun nofun
        | some m =>
          cases (exec_cbcDec_ok s nk m hk hl hm).symm.trans h
          exact .ok nk .cbcDec _ _ hk (.cbcDec m (by omega) hm)
  | gcmInit =>
    rcases keyLen_cases s.ctrl.keyLen with hk | ⟨nk, hk⟩
    · cases (exec_gcmInit_keyLen s hk).symm.trans h; exact .failedInit .keyLen nofun nofun
    · have hk' := keyLen_ne _ nk hk
      by_cases ht : s.ctrl.tagLen.toNat < 1 ∨ s.ctrl.tagLen.toNat > 16
      · cases (exec_gcmInit_tagLen s hk' ht).symm.trans h; exact .failedInit .tagLen nofun nofun
      · by_cases hn : s.nonceLen.toNat = 0 ∨ s.nonceLen.toNat > s.cfg.maxNonce
        · cases (exec_gcmInit_nonceLen s hk' ht hn).symm.trans h; exact .failedInit .nonceLen nofun nofun
        · rcases Nat.lt_or_ge s.cfg.maxAad s.aadLen.toNat with ha | ha
          · cases (exec_gcmInit_aadLen s hk' ht hn ha).symm.trans h; exact .failedInit .aadLen nofun nofun
          · cases (exec_gcmInit_ok s nk hk ht hn ha).symm.trans h
            exact .ok nk .gcmInit _ _ hk (.gcmInit (by omega) (by omega) (by omega) (by omega) ha)
  | gcmEnc =>
    rcases withContext_cases s (fun e => .ok (s.gcmEncWrites (gctr e (inc32 s.j0) s.message)
      (s.computeTag e (gctr e (inc32 s.j0) s.message))) s.msgLen.toNat) with ⟨hc, -⟩ | ⟨hc, hl, -⟩ | ⟨hc, hl, ⟨nk, hk, -⟩ | ⟨-, hr⟩⟩
    · cases (exec_gcmEnc_noCtx s hc).symm.trans h; exact .failed .gcmEnc .noCtx nofun nofun nofun nofun
    · cases (exec_gcmEnc_len s hc hl).symm.trans h; exact .failed .gcmEnc .len nofun nofun nofun nofun
    · cases (exec_gcmEnc_ok s nk hk hc hl).symm.trans h; exact .ok nk .gcmEnc _ _ hk (.gcmEnc hc hl)
    · rw [exec, execGcmEnc, runGcmEnc, hr] at h; cases h
  | gcmDec =>
    rcases withContext_cases s (fun e =>
      if tagOk s.ctrl.tagCmp s.ctrl.tagLen.toNat (s.computeTag e s.message) s.tag s.tagInLen.toNat then
        .ok (s.setArr .outBuf (gctr e (inc32 s.j0) s.message)) s.msgLen.toNat
      else .fail .auth) with ⟨hc, -⟩ | ⟨hc, hl, -⟩ | ⟨hc, hl, ⟨nk, hk, -⟩ | ⟨-, hr⟩⟩
    · cases (exec_gcmDec_noCtx s hc).symm.trans h; exact .failed .gcmDec .noCtx nofun nofun nofun nofun
    · cases (exec_gcmDec_len s hc hl).symm.trans h; exact .failed .gcmDec .len nofun nofun nofun nofun
    · cases ht : tagOk s.ctrl.tagCmp s.ctrl.tagLen.toNat (s.computeTag (aesEncrypt s.sched (rounds nk)) s.message) s.tag
        s.tagInLen.toNat with
      | false =>
        cases (exec_gcmDec_auth s nk hk hc hl ht).symm.trans h; exact .failed .gcmDec .auth nofun nofun nofun nofun
      | true => cases (exec_gcmDec_ok s nk hk hc hl ht).symm.trans h; exact .ok nk .gcmDec _ _ hk (.gcmDec hc hl ht)
    · rw [exec, execGcmDec, runGcmDec, hr] at h; cases h

/-- A command answers a next state, or it is GCM_ENC or GCM_DEC in a context with KEYLEN = 0b11, which R79 excludes. -/
theorem exec_next_or_refused (i : Instr) (s : State) :
    (∃ t, exec i s = .next t) ∨
    (s.status.ctxValid = true ∧ s.ctrl.keyLen = 0b11 ∧ (i = .gcmEnc ∨ i = .gcmDec) ∧
      exec i s = .refused .keyLenUndefined) := by
  have hn : ∀ r : ExecResult, (∀ x, r ≠ .refuse x) → ∀ op u, ∃ t, finish op u r = .next t := by
    intro r hr op u; cases r <;> simp_all [finish]
  cases i with
  | nop => exact .inl ⟨_, rfl⟩
  | reserved9 => exact .inl ⟨_, rfl⟩
  | reservedAB op => exact .inl ⟨_, rfl⟩
  | reservedCF op => exact .inl ⟨_, rfl⟩
  | keyexp =>
    refine .inl (hn _ (fun x => ?_) _ _)
    rcases withKey_cases s fun nr w => .ok (s.setSched w) (16 * (nr + 1)) with ⟨nk, -, h⟩ | ⟨-, h⟩ <;>
      simp [runKeyexp, h]
  | encBlock =>
    refine .inl (hn _ (fun x => ?_) _ _)
    rcases keyLen_cases s.ctrl.keyLen with hk | ⟨nk, hk⟩
    · simp [runEncBlock, withKey_none _ _ hk]
    · simp [runEncBlock, withKey_some _ _ _ hk]
  | decBlock =>
    refine .inl (hn _ (fun x => ?_) _ _)
    rcases keyLen_cases s.ctrl.keyLen with hk | ⟨nk, hk⟩
    · simp [runDecBlock, withKey_none _ _ hk]
    · simp [runDecBlock, withKey_some _ _ _ hk]
  | cbcEnc =>
    refine .inl (hn _ (fun x => ?_) _ _)
    rcases keyLen_cases s.ctrl.keyLen with hk | ⟨nk, hk⟩
    · simp [runCbcEnc, withKey_none _ _ hk]
    · simp only [runCbcEnc, withKey_some _ _ _ hk]; split_ifs <;> (try split) <;> simp
  | cbcDec =>
    refine .inl (hn _ (fun x => ?_) _ _)
    rcases keyLen_cases s.ctrl.keyLen with hk | ⟨nk, hk⟩
    · simp [runCbcDec, withKey_none _ _ hk]
    · simp only [runCbcDec, withKey_some _ _ _ hk]; split_ifs <;> (try split) <;> simp
  | gcmInit =>
    refine .inl (hn _ (fun x => ?_) _ _)
    rcases keyLen_cases s.ctrl.keyLen with hk | ⟨nk, hk⟩
    · simp [runGcmInit, withKey_none _ _ hk]
    · simp only [runGcmInit, withKey_some _ _ _ hk]; split_ifs <;> nofun
  | gcmEnc =>
    rcases withContext_cases s (fun e => .ok (s.gcmEncWrites (gctr e (inc32 s.j0) s.message)
      (s.computeTag e (gctr e (inc32 s.j0) s.message))) s.msgLen.toNat) with
      ⟨-, h⟩ | ⟨-, -, h⟩ | ⟨hc, -, ⟨nk, -, h⟩ | ⟨hk, h⟩⟩
    · exact .inl ⟨_, by rw [exec, execGcmEnc, runGcmEnc, h]; rfl⟩
    · exact .inl ⟨_, by rw [exec, execGcmEnc, runGcmEnc, h]; rfl⟩
    · exact .inl ⟨_, by rw [exec, execGcmEnc, runGcmEnc, h]; rfl⟩
    · exact .inr ⟨hc, hk, .inl rfl, by rw [exec, execGcmEnc, runGcmEnc, h]; rfl⟩
  | gcmDec =>
    rcases withContext_cases s (fun e =>
      if tagOk s.ctrl.tagCmp s.ctrl.tagLen.toNat (s.computeTag e s.message) s.tag s.tagInLen.toNat then
        .ok (s.setArr .outBuf (gctr e (inc32 s.j0) s.message)) s.msgLen.toNat
      else .fail .auth) with ⟨-, h⟩ | ⟨-, -, h⟩ | ⟨hc, -, ⟨nk, -, h⟩ | ⟨hk, h⟩⟩
    · exact .inl ⟨_, by rw [exec, execGcmDec, runGcmDec, h]; rfl⟩
    · exact .inl ⟨_, by rw [exec, execGcmDec, runGcmDec, h]; rfl⟩
    · rw [exec, execGcmDec, runGcmDec, h]
      exact .inl (hn _ (by split_ifs <;> nofun) _ _)
    · exact .inr ⟨hc, hk, .inr rfl, by rw [exec, execGcmDec, runGcmDec, h]; rfl⟩

end Sys2Proof.Machine
end

