-- ==== Sys2Proof/Laws/Bus.lean ====
section
/-! SUPPORT. Everything a host access and a step can do, each said once: the provers cite these and unfold no bus access. -/

namespace Sys2Proof.Machine

/-! ### Decoding the pending command -/

/-- The command of a word is the command of its OP field (R62). -/
theorem decode_eq_decodeOp (v : Word) : decode v = decodeOp (opField v) := rfl

/-- A decoded command has the opcode it was decoded from, and is well formed. -/
theorem opcode_decodeOp (op : BitVec 4) : opcode (decodeOp op) = op ∧ (decodeOp op).wellFormed = true := by
  revert op; decide

/-- Only opcode 0 is a NOP (R64). -/
theorem decodeOp_eq_nop (op : BitVec 4) : decodeOp op = .nop ↔ op = 0x0 := by
  revert op; decide

/-! ### A host write -/

/-- Every way a host write can end. -/
inductive WriteEnds (s : State) (n : Size) (a : BitVec 16) (v : Word) : State → Prop where
  | error (h : locate s.cfg n a.toNat = .reserved ∨ (∃ r, locate s.cfg n a.toNat = .reg r ∧ r.readOnly = true) ∨
      ∃ x, locate s.cfg n a.toNat = .arr x ∧ x.readOnly = true) :
      WriteEnds s n a v (s.respond (.error (.busError a)))
  | droppedReg (r : Reg) (hl : locate s.cfg n a.toNat = .reg r) (hr : r.readOnly = false) (hb : s.status.busy = true)
      (hw : r.busyWritable = false) : WriteEnds s n a v (s.noteBusyErr.respond .okay)
  | droppedArr (x : Arr) (hl : locate s.cfg n a.toNat = .arr x) (hr : x.readOnly = false) (hb : s.status.busy = true) :
      WriteEnds s n a v (s.noteBusyErr.respond .okay)
  | nop (hl : locate s.cfg n a.toNat = .reg .cmd) (hb : s.status.busy = false) (ho : opField v = 0x0) :
      WriteEnds s n a v (s.respond .okay)
  | issue (hl : locate s.cfg n a.toNat = .reg .cmd) (hb : s.status.busy = false) (ho : opField v ≠ 0x0) :
      WriteEnds s n a v { s.respond .okay with pendingOp := opField v, status := { s.status with busy := true } }
  | reg (r : Reg) (hl : locate s.cfg n a.toNat = .reg r) (hr : r.readOnly = false)
      (hb : s.status.busy = true → r.busyWritable = true) (hc : r ≠ .cmd) :
      WriteEnds s n a v ((s.writeReg v r).respond .okay)
  | arr (x : Arr) (hl : locate s.cfg n a.toNat = .arr x) (hr : x.readOnly = false) (hb : s.status.busy = false) :
      WriteEnds s n a v ((s.writeArr n a.toNat v x).respond .okay)

/-- The issue of a command word (R69). -/
theorem issue_nop (s : State) (v : Word) (h : opField v = 0x0) : issue s v = .next s := by
  rw [issue, decode_eq_decodeOp, (decodeOp_eq_nop _).2 h]; rfl

theorem issue_pending (s : State) (v : Word) (h : opField v ≠ 0x0) :
    issue s v = .next { s with pendingOp := opField v, status := { s.status with busy := true } } := by
  have hd := mt (decodeOp_eq_nop _).1 h
  have ho := (opcode_decodeOp (opField v)).1
  rw [← decode_eq_decodeOp] at hd ho
  unfold issue
  split
  · contradiction
  · rw [ho]

/-- A host write always answers a next state, and this is everything it can be (R48, R50, R51, R76). -/
theorem hostWrite_ends (s : State) (n : Size) (a : BitVec 16) (v : Word) :
    ∃ t, hostWrite s n a v = .next t ∧ WriteEnds s n a v t := by
  unfold hostWrite
  split
  · next hl => exact ⟨_, rfl, .error (.inl hl)⟩
  · next r hl =>
    cases hr : r.readOnly with
    | true => exact ⟨_, rfl, .error (.inr (.inl ⟨r, hl, hr⟩))⟩
    | false =>
      rw [if_neg (by simp)]
      by_cases hb : (s.status.busy && !r.busyWritable) = true
      · rw [if_pos hb]; simp at hb
        exact ⟨_, rfl, .droppedReg r hl hr hb.1 hb.2⟩
      · rw [if_neg hb]
        by_cases hc : r = .cmd
        · subst hc
          have hb' : s.status.busy = false := by simpa [Reg.busyWritable] using hb
          rw [if_pos rfl]
          by_cases ho : opField v = 0x0
          · exact ⟨_, issue_nop _ v ho, .nop hl hb' ho⟩
          · exact ⟨_, issue_pending _ v ho, .issue hl hb' ho⟩
        · rw [if_neg hc]
          exact ⟨_, rfl, .reg r hl hr (by simpa using hb) hc⟩
  · next x hl =>
    cases hr : x.readOnly with
    | true => exact ⟨_, rfl, .error (.inr (.inr ⟨x, hl, hr⟩))⟩
    | false =>
      rw [if_neg (by simp)]
      cases hb : s.status.busy with
      | true => exact ⟨_, rfl, .droppedArr x hl hr hb⟩
      | false => exact ⟨_, rfl, .arr x hl hr hb⟩

/-! ### Reads -/

/-- A read changes nothing but the bus's answer (R49, R55). -/
theorem hostRead_eq (s : State) (n : Size) (a : BitVec 16) : ∃ r, hostRead s n a = { s with response := some r } := by
  unfold hostRead; split <;> exact ⟨_, rfl⟩

/-- A read at the bus target port is a host read, or does not reach AESC. -/
theorem portRead_eq (s : State) (n : Size) (addr : Nat) : ∃ r, portRead s n addr = { s with response := r } := by
  unfold portRead
  split
  · exact (hostRead_eq s n _).imp' some fun _ h => h
  · exact ⟨s.response, rfl⟩

/-- A write at the bus target port does not reach AESC, or is the host write at its offset in the window (R44). -/
theorem portWrite_ends (s : State) (n : Size) (addr : Nat) (v : Word) :
    (windowOffset s.cfg addr = none ∧ portWrite s n addr v = .next s) ∨
    ∃ a t, windowOffset s.cfg addr = some a ∧ portWrite s n addr v = .next t ∧ WriteEnds s n a v t := by
  unfold portWrite
  split
  · next a ha =>
    obtain ⟨t, ht, hw⟩ := hostWrite_ends s n a v
    exact .inr ⟨a, t, ha, ht, hw⟩
  · next ha => exact .inl ⟨ha, rfl⟩

/-- The window holds exactly the 65536 addresses from AESC_BASE on, and the offset is the distance from it (R44). -/
theorem windowOffset_eq_some (cfg : Config) (addr : Nat) (a : BitVec 16) :
    windowOffset cfg addr = some a ↔ addr = cfg.base + a.toNat := by
  unfold windowOffset
  split
  · next h =>
    rw [Option.some_inj]
    constructor
    · rintro rfl; simp [BitVec.toNat_ofNat]; omega
    · intro h'; subst h'; simp
  · next h => have := a.isLt; simp; omega

/-- One read of a POLL changes nothing but the bus's answer and the events to come (R67). -/
theorem hostPoll_eq (s : State) (a : BitVec 16) (mask val : Word) :
    ∃ r es, hostPoll s a mask val = { s with response := some r, events := es } := by
  unfold hostPoll
  split
  · split <;> exact ⟨_, _, rfl⟩
  · exact ⟨_, _, rfl⟩

/-! ### A step -/

/-- Every way a step can answer a next state; `es` are the events left when the step's own event is taken. -/
inductive StepEnds (s : State) : State → Prop where
  | listen (r : Option BusResponse) (es : List Event) : StepEnds s { s with response := r, events := es }
  | write (e : Event) (n : Size) (a : BitVec 16) (v : Word) (es : List Event) (t : State) (he : s.events = e :: es)
      (hv : hostWriteOf s.cfg e = some (n, a, v)) (hw : WriteEnds { s with events := es } n a v t) : StepEnds s t
  | complete (i : Instr) (es : List Event) (t : State) (hi : i = decodeOp s.pendingOp)
      (he : s.events = .engine :: es ∨ s.events = [] ∧ es = []) (hb : s.status.busy = true)
      (hx : exec i { s with events := es } = .next t) : StepEnds s t
  | rng (draw : Vector Byte 16) (es : List Event) (he : s.events = .rng draw :: es) (hp : s.rngPort = none) :
      StepEnds s { s with events := es, rngPort := some draw, rngWait := false }
  | reset (es : List Event) (he : s.events = .reset :: es) : StepEnds s { s with events := es }.resetNow

/-- Everything a step can do when it answers a next state. -/
theorem step_ends (s t : State) (h : step s = .next t) : StepEnds s t := by
  unfold step takeStep at h
  split at h
  · next he =>
    unfold engineTurn at h
    split at h
    · next hb => exact .complete _ [] t rfl (.inr ⟨he, rfl⟩) hb (by rw [← he]; exact h)
    · cases h; exact .listen s.response s.events
  · next e es he =>
    cases e with
    | read n a =>
      obtain ⟨r, hr⟩ := hostRead_eq { s with events := es } n a
      cases h; rw [hr]; exact .listen _ _
    | write n a v =>
      obtain ⟨u, hu, hw⟩ := hostWrite_ends { s with events := es } n a v
      cases hu.symm.trans h; exact .write _ n a v es _ he rfl hw
    | poll a mask val =>
      obtain ⟨r, fs, hr⟩ := hostPoll_eq { s with events := es } a mask val
      cases h; rw [hr]; exact .listen _ _
    | busRead n addr =>
      obtain ⟨r, hr⟩ := portRead_eq { s with events := es } n addr
      cases h; rw [hr]; exact .listen _ _
    | busWrite n addr v =>
      rcases portWrite_ends { s with events := es } n addr v with ⟨-, hu⟩ | ⟨a, u, ha, hu, hw⟩
      · cases hu.symm.trans h; exact .listen s.response es
      · cases hu.symm.trans h
        exact .write _ n a v es _ he (congrArg (Option.map fun a => (n, a, v)) ha) hw
    | engine =>
      change engineTurn { s with events := es } = .next t at h
      unfold engineTurn at h
      split at h
      · next hb => exact .complete _ es t rfl (.inl he) hb h
      · cases h; exact .listen s.response es
    | rng draw =>
      cases h
      unfold State.rngDeliver
      split
      · next hp => exact .rng draw es he hp
      · exact .listen s.response es
    | reset => cases h; exact .reset es he

/-- A step stops only where the pending command does. -/
theorem step_next_or_refused (s : State) :
    (∃ t, step s = .next t) ∨
    (s.status.busy = true ∧ s.status.ctxValid = true ∧ s.ctrl.keyLen = 0b11 ∧ step s = .refused .keyLenUndefined) := by
  have heng : ∀ u : State, u.status = s.status → u.ctrl = s.ctrl → (∃ t, engineTurn u = .next t) ∨
      (s.status.busy = true ∧ s.status.ctxValid = true ∧ s.ctrl.keyLen = 0b11 ∧
        engineTurn u = .refused .keyLenUndefined) := by
    intro u hs hc
    unfold engineTurn
    split
    · next hb =>
      rcases exec_next_or_refused (decodeOp u.pendingOp) u with h | ⟨h1, h2, -, h3⟩
      · exact .inl h
      · exact .inr ⟨hs ▸ hb, hs ▸ h1, hc ▸ h2, h3⟩
    · exact .inl ⟨_, rfl⟩
  unfold step takeStep
  split
  · exact heng s rfl rfl
  · next e es he =>
    cases e with
    | read n a => exact .inl ⟨_, rfl⟩
    | write n a v => obtain ⟨u, hu, -⟩ := hostWrite_ends { s with events := es } n a v; exact .inl ⟨u, hu⟩
    | poll a mask val => exact .inl ⟨_, rfl⟩
    | busRead n addr => exact .inl ⟨_, rfl⟩
    | busWrite n addr v =>
      rcases portWrite_ends { s with events := es } n addr v with ⟨-, hu⟩ | ⟨a, u, -, hu, -⟩
      · exact .inl ⟨_, hu⟩
      · exact .inl ⟨u, hu⟩
    | engine => exact heng { s with events := es } rfl rfl
    | rng draw => exact .inl ⟨_, rfl⟩
    | reset => exact .inl ⟨_, rfl⟩

end Sys2Proof.Machine
end

