-- ==== Sys2Proof/Laws/PerInstr.lean ====
section
/-! SUPPORT. The per-instruction family: every well-formed command lies in its own row of spec/opcode_table.json (R64). -/

namespace Sys2Proof.Laws.TableRow

/-- The mask of a command's row of the table. -/
def mask : Instr → Word
  | .nop => 0x0000000F
  | .keyexp => 0x0000000F
  | .encBlock => 0x0000000F
  | .decBlock => 0x0000000F
  | .cbcEnc => 0x0000000F
  | .cbcDec => 0x0000000F
  | .gcmInit => 0x0000000F
  | .gcmEnc => 0x0000000F
  | .gcmDec => 0x0000000F
  | .reserved9 => 0x0000000F
  | .reservedAB _ => 0x0000000E
  | .reservedCF _ => 0x0000000C

/-- The match word of a command's row of the table. -/
def pattern : Instr → Word
  | .nop => 0x00000000
  | .keyexp => 0x00000001
  | .encBlock => 0x00000002
  | .decBlock => 0x00000003
  | .cbcEnc => 0x00000004
  | .cbcDec => 0x00000005
  | .gcmInit => 0x00000006
  | .gcmEnc => 0x00000007
  | .gcmDec => 0x00000008
  | .reserved9 => 0x00000009
  | .reservedAB _ => 0x0000000A
  | .reservedCF _ => 0x0000000C

/-- A well-formed command's word matches its row and writes 0 in the ignored bits 31:4. -/
def Statement (i : Instr) : Prop :=
  i.wellFormed = true → encode i &&& mask i = pattern i ∧ encode i &&& 0xFFFFFFF0 = 0

theorem nop : Statement .nop := by unfold Statement; decide
theorem keyexp : Statement .keyexp := by unfold Statement; decide
theorem encBlock : Statement .encBlock := by unfold Statement; decide
theorem decBlock : Statement .decBlock := by unfold Statement; decide
theorem cbcEnc : Statement .cbcEnc := by unfold Statement; decide
theorem cbcDec : Statement .cbcDec := by unfold Statement; decide
theorem gcmInit : Statement .gcmInit := by unfold Statement; decide
theorem gcmEnc : Statement .gcmEnc := by unfold Statement; decide
theorem gcmDec : Statement .gcmDec := by unfold Statement; decide
theorem reserved9 : Statement .reserved9 := by unfold Statement; decide
theorem reservedAB (op : BitVec 4) : Statement (.reservedAB op) := by unfold Statement; revert op; decide
theorem reservedCF (op : BitVec 4) : Statement (.reservedCF op) := by unfold Statement; revert op; decide

end Sys2Proof.Laws.TableRow
end

