-- ==== Sys2Proof/Tests/Slice0.lean ====
section
/-! SUPPORT. The model's own tests: words and vectors of the spec, one step each, and a witness for the hypotheses of every
statement. Expected results come from spec/ (the file and section are named), never from the model. -/

namespace Sys2Proof.Tests

open Sys2Proof Sys2Proof.Machine

/-! ### Helpers -/

/-- The `n` bytes of a hex string written as a number. -/
def hexBytes (n v : Nat) : Bytes := beBytes n v

/-- What `f` sees after a step that answers a next state. -/
def after {α : Type} (f : State → α) : Host.Outcome State Fault Refusal → Option α
  | .next t => some (f t)
  | .fault _ => none
  | .refused _ => none

/-- A register after a step. -/
def registerOf (r : Reg) : Host.Outcome State Fault Refusal → Option Word := after fun t => regValue t r

/-- STATUS after a step. -/
def statusOf : Host.Outcome State Fault Refusal → Option Word := registerOf .status

/-- INT_STATUS after a step. -/
def intStatusOf : Host.Outcome State Fault Refusal → Option Word := registerOf .intStatus

/-- The memory after a step. -/
def memOf : Host.Outcome State Fault Refusal → Option (List Host.Cell) := after State.mem

/-- The events to come after a step. -/
def eventsOf : Host.Outcome State Fault Refusal → Option (List Event) := after State.events

/-- The bus's answer after a step that answers a next state. -/
def responseOf : Host.Outcome State Fault Refusal → Option BusResponse
  | .next t => t.response
  | .fault _ => none
  | .refused _ => none

/-- The reset state with one event to come. -/
def host (e : Event) : State := { State.reset with events := [e] }

/-- The reset state with the command `op` running and the events `es` to come. -/
def running (op : BitVec 4) (es : List Event) : State :=
  { State.reset with pendingOp := op, status := { State.reset.status with busy := true }, events := es }

/-- The reset state with the key length `k`. -/
def keyed (k : BitVec 2) : State := { State.reset with ctrl := { State.reset.ctrl with keyLen := k } }

/-- The reset state with a key, an IV and a message loaded. -/
def loaded (k iv inp : Bytes) : State :=
  { ((State.reset.setArr .key k).setArr .iv iv).setArr .inBuf inp with msgLen := BitVec.ofNat 16 inp.length }

/-! ### Well-formedness: each check refuses an ill-formed command -/

/-- 30_encoding.md R64: the row RESERVED_A_B covers 0xA and 0xB alone. -/
theorem test_wellFormed_reservedAB :
    Instr.wellFormed (.reservedAB 0x3) = false ∧ Instr.wellFormed (.reservedAB 0x9) = false ∧
    Instr.wellFormed (.reservedAB 0xC) = false ∧ Instr.wellFormed (.reservedAB 0xA) = true ∧
    Instr.wellFormed (.reservedAB 0xB) = true := by decide

/-- 30_encoding.md R64: the row RESERVED_C_F covers 0xC to 0xF alone. -/
theorem test_wellFormed_reservedCF :
    Instr.wellFormed (.reservedCF 0x3) = false ∧ Instr.wellFormed (.reservedCF 0xB) = false ∧
    Instr.wellFormed (.reservedCF 0xC) = true ∧ Instr.wellFormed (.reservedCF 0xF) = true := by decide

/-! ### Decoding: words written bit by bit from R62 and R64 (ignored bits 31:4 first, then OP) -/

theorem test_decode_nop : decode 0b00000000000000000000000000000000 = .nop := by decide
theorem test_decode_keyexp : decode 0b11111111111111111111111111110001 = .keyexp := by decide
theorem test_decode_encBlock : decode 0b00000000000000000000000000000010 = .encBlock := by decide
theorem test_decode_decBlock : decode 0b10000000000000000000000000010011 = .decBlock := by decide
theorem test_decode_cbcEnc : decode 0b00000000000000000000000000000100 = .cbcEnc := by decide
theorem test_decode_cbcDec : decode 0b00000000000000000000000000000101 = .cbcDec := by decide
theorem test_decode_gcmInit : decode 0b00000000000000000000000000000110 = .gcmInit := by decide
theorem test_decode_gcmEnc : decode 0b00000000000000000000000000000111 = .gcmEnc := by decide
theorem test_decode_gcmDec : decode 0b00000000000000000000000000001000 = .gcmDec := by decide
theorem test_decode_reserved9 : decode 0b00000000000000000000000000001001 = .reserved9 := by decide
theorem test_decode_reservedAB : decode 0b00000000000000000000000000001010 = .reservedAB 0xA ∧
    decode 0b00000000000000000000000000001011 = .reservedAB 0xB := by decide
theorem test_decode_reservedCF : decode 0b00000000000000000000000000001100 = .reservedCF 0xC ∧
    decode 0b00000000000000000000000000001111 = .reservedCF 0xF := by decide

/-- R62, R66: one word of four bytes and nothing else; byte 0 carries OP (R53). -/
theorem test_decodeBytes : decodeBytes [0x06, 0xAA, 0xBB, 0xCC] = .ok .gcmInit ∧
    decodeBytes [0x06, 0xAA, 0xBB] = .error .notOneWord ∧ decodeBytes [] = .error .notOneWord ∧
    decodeBytes [0x06, 0, 0, 0, 0] = .error .notOneWord := by decide

theorem test_decodeTableWord : decodeTableWord 32 0x00000007 = some .gcmEnc ∧
    decodeTableWord 32 0x0000000B = some (.reservedAB 0xB) ∧ decodeTableWord 8 0x105 = some .cbcDec := by decide

/-! ### Functions: 95_test_vectors.md §2.1 to §2.5 -/

/-- §2.1. -/
theorem test_gfMul8 : xtime 0x57 = 0xAE ∧ xtime 0x80 = 0x1B ∧ gfMul8 0x57 0x83 = 0xC1 ∧ gfMul8 0x57 0x13 = 0xFE ∧
    gfMul8 0x02 0x87 = 0x15 ∧ gfMul8 0x0E 0x0B = 0x62 ∧ gfMul8 0x00 0x55 = 0x00 ∧ gfMul8 0x01 0xAB = 0xAB := by decide

/-- §2.1. -/
theorem test_sbox : sbox 0x00 = 0x63 ∧ sbox 0x01 = 0x7C ∧ sbox 0x10 = 0xCA ∧ sbox 0x53 = 0xED ∧ sbox 0x7F = 0xD2 ∧
    sbox 0x80 = 0xCD ∧ sbox 0xFF = 0x16 ∧ invSbox 0x00 = 0x52 ∧ invSbox 0x01 = 0x09 ∧ invSbox 0x63 = 0x00 ∧
    invSbox 0xED = 0x53 ∧ invSbox 0xFF = 0x7D := by decide

/-- §2.1: Rcon[1..10]. -/
theorem test_rcon : (List.range' 1 10).map rcon = [0x01, 0x02, 0x04, 0x08, 0x10, 0x20, 0x40, 0x80, 0x1b, 0x36] := by decide

/-- §2.1: the GFMul128 row, and the GHASH row of the §8 tag. -/
theorem test_ghash :
    gfMul128 (hexBytes 16 0x66e94bd4ef8a2c3b884cfa59ca342b2e) (hexBytes 16 0x0388dace60b6a392f328c2b971b2fe78) =
      hexBytes 16 0x5e2ec746917062882c85b0685353deb7 ∧
    ghash (hexBytes 16 0x66e94bd4ef8a2c3b884cfa59ca342b2e)
      (hexBytes 32 0x0388dace60b6a392f328c2b971b2fe7800000000000000000000000000000080) =
      hexBytes 16 0xf38cbb1ad69223dcc3457ae5b6b0f885 := by decide +kernel

/-- §2.2: the FIPS-197 AES-128 key: length, bytes 16 to 31 and the last round key. -/
theorem test_expandKey_128 :
    let w := expandKey (hexBytes 16 0x000102030405060708090a0b0c0d0e0f) 16
    w.length = 176 ∧ slice w 16 32 = hexBytes 16 0xd6aa74fdd2af72fadaa678f1d6ab76fe ∧
      slice w 160 176 = hexBytes 16 0x13111d7fe3944a17f307a78b4d2b30c5 := by decide +kernel

/-- §2.2: the 24-byte key 000102...17. -/
theorem test_expandKey_192 :
    let w := expandKey (hexBytes 24 0x000102030405060708090a0b0c0d0e0f1011121314151617) 24
    w.length = 208 ∧ slice w 16 32 = hexBytes 16 0x10111213141516175846f2f95c43f4fe ∧
      slice w 192 208 = hexBytes 16 0xa4970a331a78dc09c418c271e3a41d5d := by decide +kernel

/-- §2.2: the 32-byte key 603deb10...; the SubWord-only step first acts at byte 48. -/
theorem test_expandKey_256 :
    let w := expandKey (hexBytes 32 0x603deb1015ca71be2b73aef0857d77811f352c073b6108d72d9810a30914dff4) 32
    w.length = 240 ∧ slice w 32 48 = hexBytes 16 0x9ba354118e6925afa51a8b5f2067fcde ∧
      slice w 224 240 = hexBytes 16 0xfe4890d1e6188d0b046df344706c631e := by decide +kernel

/-- §2.3: the step functions; ShiftRows is the vector that tells the column-wise layout (90_conflicts.md C1). -/
theorem test_rounds :
    let b := hexBytes 16 0x00112233445566778899aabbccddeeff
    store (load b) = b ∧
    store (shiftRows (load b)) = hexBytes 16 0x0055aaff4499ee3388dd2277cc1166bb ∧
    store (invShiftRows (load b)) = hexBytes 16 0x00ddaa774411eebb885522ffcc996633 ∧
    store (subBytes (load b)) = hexBytes 16 0x638293c31bfc33f5c4eeacea4bc12816 ∧
    store (invSubBytes (load b)) = hexBytes 16 0x52e3946686edd30297f962fe27c9997d ∧
    store (mixColumns (load (hexBytes 16 0xdb135345f20a225c01010101c6c6c6c6))) =
      hexBytes 16 0x8e4da1bc9fdc589d01010101c6c6c6c6 ∧
    store (invMixColumns (load (hexBytes 16 0x8e4da1bc9fdc589d01010101c6c6c6c6))) =
      hexBytes 16 0xdb135345f20a225c01010101c6c6c6c6 := by decide +kernel

/-- §2.3: the FIPS-197 block under AES-128. -/
theorem test_aes128 :
    aesEncrypt (expandKey (hexBytes 16 0x000102030405060708090a0b0c0d0e0f) 16) 10
      (hexBytes 16 0x00112233445566778899aabbccddeeff) = hexBytes 16 0x69c4e0d86a7b0430d8cdb78070b4c55a := by
  decide +kernel

/-- §2.3: the same under AES-192. -/
theorem test_aes192 :
    aesEncrypt (expandKey (hexBytes 24 0x000102030405060708090a0b0c0d0e0f1011121314151617) 24) 12
      (hexBytes 16 0x00112233445566778899aabbccddeeff) = hexBytes 16 0xdda97ca4864cdfe06eaf70a0ec0d7191 := by
  decide +kernel

/-- §2.3: the same under AES-256. -/
theorem test_aes256 :
    aesEncrypt (expandKey (hexBytes 32 0x000102030405060708090a0b0c0d0e0f101112131415161718191a1b1c1d1e1f) 32) 14
      (hexBytes 16 0x00112233445566778899aabbccddeeff) = hexBytes 16 0x8ea2b7ca516745bfeafc49904b496089 := by
  decide +kernel

/-- §2.3: the inverse cipher of a block that no encryption of the tests made. -/
theorem test_aesDecrypt :
    aesDecrypt (expandKey (zeros 16) 16) 10 (zeros 16) = hexBytes 16 0x140f0f1011b5223d79587717ffd9ec3a := by
  decide +kernel

/-- §2.4: the 20-byte message. -/
theorem test_cbcEncrypt :
    cbcEncrypt (aesEncrypt (expandKey (hexBytes 16 0x000102030405060708090a0b0c0d0e0f) 16) 10)
      (List.replicate 16 0xa5) (pad (hexBytes 20 0x000102030405060708090a0b0c0d0e0f10111213)) =
    hexBytes 32 0x3333b9a5b8d778bdfc68f1c467af67c5e52d56aaf7a177d2d755bd4fbe68de85 := by decide +kernel

/-- R113 on the decrypted blocks of §2.4: 16 bytes of padding, p = 0, p = 17, and a mismatch. -/
theorem test_unpad :
    unpad (List.replicate 16 0x10) = some [] ∧
    unpad (hexBytes 16 0x41414141414141414141414141410202) = some (List.replicate 14 0x41) ∧
    unpad (hexBytes 16 0x41414141414141414141414141414100) = none ∧
    unpad (List.replicate 16 0x11) = none ∧
    unpad (hexBytes 16 0x41414141414141414141414141030403) = none := by decide

/-- §2.5. -/
theorem test_inc32 :
    inc32 (hexBytes 16 0x000102030405060708090a0bffffffff) = hexBytes 16 0x000102030405060708090a0b00000000 ∧
    inc32 (hexBytes 16 0x000102030405060708090a0b000000ff) = hexBytes 16 0x000102030405060708090a0b00000100 := by
  decide +kernel

/-- §2.5: J0 of the 1-byte and the 16-byte nonce under the zero key, whose H is E(0^16). -/
theorem test_deriveJ0 :
    deriveJ0 (hexBytes 16 0x66e94bd4ef8a2c3b884cfa59ca342b2e) (zeros 12) = hexBytes 16 1 ∧
    deriveJ0 (hexBytes 16 0x66e94bd4ef8a2c3b884cfa59ca342b2e) [0x00] = hexBytes 16 0xd326e5c0a72a570d9692017ee375c24b ∧
    deriveJ0 (hexBytes 16 0x66e94bd4ef8a2c3b884cfa59ca342b2e) (zeros 16) = hexBytes 16 0xa66e5c0a72a570d9692017ee375c24ba := by
  decide +kernel

/-- §1.1, the source's §8 vector: the hash subkey. -/
theorem test_gcm_hsub :
    aesEncrypt (expandKey (zeros 16) 16) 10 (zeros 16) = hexBytes 16 0x66e94bd4ef8a2c3b884cfa59ca342b2e := by decide +kernel

/-- §1.1: the ciphertext. -/
theorem test_gcm_ciphertext :
    gctr (aesEncrypt (expandKey (zeros 16) 16) 10) (inc32 (hexBytes 16 1)) (zeros 16) =
      hexBytes 16 0x0388dace60b6a392f328c2b971b2fe78 := by decide +kernel

/-- §1.1: the tag. -/
theorem test_gcm_tag :
    computeTag (aesEncrypt (expandKey (zeros 16) 16) 10) (hexBytes 16 0x66e94bd4ef8a2c3b884cfa59ca342b2e) (hexBytes 16 1) []
      (hexBytes 16 0x0388dace60b6a392f328c2b971b2fe78) 16 = hexBytes 16 0xab6e47d42cec13bdf53a67b21257bddf := by
  decide +kernel

/-- §2.5, "one AAD byte", with E(J0) = 58e2fcce...5a as TC1's tag gives it: the tag of the same ciphertext. -/
theorem test_gcm_tag_aad :
    computeTag (fun _ => hexBytes 16 0x58e2fccefa7e3061367f1d57a4e7455a) (hexBytes 16 0x66e94bd4ef8a2c3b884cfa59ca342b2e)
      (hexBytes 16 1) [0x00] (hexBytes 16 0x0388dace60b6a392f328c2b971b2fe78) 16 =
      hexBytes 16 0x4dfc46aacf99d1f65baedafceaf57e67 := by decide +kernel

/-- §2.5's tag comparison table: both modes, lengths 16, 15, 0 and 17. -/
theorem test_tagOk :
    let t := hexBytes 16 0xab6e47d42cec13bdf53a67b21257bddf
    let bad := hexBytes 16 0xab6e47d42cec13bdf53a67b21257bdde
    tagOk false 16 t t 16 = true ∧ tagOk true 16 t t 16 = true ∧ tagOk false 16 t bad 16 = false ∧
    tagOk false 16 t bad 15 = true ∧ tagOk true 16 t bad 15 = false ∧ tagOk false 16 t bad 0 = true ∧
    tagOk true 16 t bad 0 = false ∧ tagOk false 16 t t 17 = false := by decide +kernel

/-! ### One step: the decoder and the engine -/

/-- 70_reset_and_hazards.md R147: what the host reads after reset. -/
theorem test_reset : responseOf (step (host (.read .word 0x0010))) = some (.data 0x00001000) ∧
    responseOf (step (host (.read .word 0x0008))) = some (.data 0x04001000) ∧
    responseOf (step (host (.read .word 0x000C))) = some (.data 0x00000100) ∧
    responseOf (step (host (.read .word 0x0000))) = some (.data 0x41455343) ∧
    responseOf (step (host (.read .byte 0x011F))) = some (.data 0x00000000) := by decide +kernel

/-- The word placed by withFetchWord is the first one that the step after reset runs (log 11); the outcomes are those of
95_test_vectors.md §2.5 and §2.6 and of R132 at reset: no context, NONCE_LEN = 0, MSG_LEN = 0. -/
theorem test_withFetchWord :
    statusOf (step (State.reset.withFetchWord 32 0x00000000)) = some 0x00000000 ∧
    statusOf (step (State.reset.withFetchWord 32 0x00000001)) = some 0x00001002 ∧
    statusOf (step (State.reset.withFetchWord 32 0x00000005)) = some 0x00005300 ∧
    statusOf (step (State.reset.withFetchWord 32 0x00000006)) = some 0x00006700 ∧
    statusOf (step (State.reset.withFetchWord 32 0x00000007)) = some 0x00007500 ∧
    statusOf (step (State.reset.withFetchWord 32 0x00000008)) = some 0x00008500 ∧
    statusOf (step (State.reset.withFetchWord 32 0x0000000B)) = some 0x0000B100 ∧
    statusOf (step (State.reset.withFetchWord 32 0x0000000F)) = some 0x0000F100 := by decide +kernel

/-- §2.6: a NOP leaves STATUS and never sets BUSY. -/
theorem test_nop :
    let s := { State.reset with
      status := { State.reset.status with ksValid := true, errCode := .badOp }
      events := [Event.write .word 0x0014 0x0] }
    statusOf (step s) = some 0x00000102 ∧ intStatusOf (step s) = some 0 := by decide

/-- §2.6: reserved 0x9 keeps KS_VALID and CTX_VALID. -/
theorem test_reserved9 :
    statusOf (exec .reserved9
      { State.reset with status := { State.reset.status with ksValid := true, ctxValid := true } }) = some 0x00009106 := by
  decide

/-- §2.6: reserved 0xF sets DONE and ERR. -/
theorem test_reservedCF : statusOf (exec (.reservedCF 0xF) State.reset) = some 0x0000F100 ∧
    intStatusOf (exec (.reservedCF 0xF) State.reset) = some 0x3 := by decide

theorem test_reservedAB : statusOf (exec (.reservedAB 0xA) State.reset) = some 0x0000A100 := by decide

/-- §2.2: KEYLEN = 0b11. -/
theorem test_keyexp_keyLen : statusOf (exec .keyexp (keyed 0b11)) = some 0x00001200 := by decide

/-- §2.2: AES-256's OUT_LEN is 240 (program P4). -/
theorem test_keyexp_256 : ∃ t, exec .keyexp (keyed 0b10) = .next t ∧ regValue t .outLen = 0xF0 ∧ regValue t .status = 0x1002 :=
  ⟨_, exec_keyexp_ok (keyed 0b10) 32 rfl, by decide, by decide⟩

/-- §2.4: MSG_LEN = 17 is ERR_LEN, and ERR_KEYLEN wins over it. -/
theorem test_cbcDec_len : statusOf (exec .cbcDec { State.reset with msgLen := 17 }) = some 0x00005300 ∧
    statusOf (exec .cbcDec { keyed 0b11 with msgLen := 17 }) = some 0x00005200 := by decide +kernel

/-- §2.4: MSG_LEN = MAX_MSG + 1 gives ERRCODE 3. -/
theorem test_cbcEnc_len : statusOf (exec .cbcEnc { State.reset with msgLen := 4097 }) = some 0x00004300 := by
  decide +kernel

/-- §2.5: GCM_INIT's check order. -/
theorem test_gcmInit_checks :
    statusOf (exec .gcmInit { State.reset with ctrl := { State.reset.ctrl with tagLen := 0 } }) = some 0x00006600 ∧
    statusOf (exec .gcmInit { State.reset with ctrl := { State.reset.ctrl with tagLen := 17 } }) = some 0x00006600 ∧
    statusOf (exec .gcmInit { State.reset with nonceLen := 257 }) = some 0x00006700 ∧
    statusOf (exec .gcmInit { State.reset with nonceLen := 12, aadLen := 1025 }) = some 0x00006800 ∧
    statusOf (exec .gcmInit { State.reset with ctrl := { State.reset.ctrl with keyLen := 0b11, tagLen := 0 } }) =
      some 0x00006200 := by decide +kernel

/-- §2.5: ERR_NOCTX comes before ERR_LEN. -/
theorem test_gcmEnc_checks :
    statusOf (exec .gcmEnc { State.reset with msgLen := 4097 }) = some 0x00007500 ∧
    statusOf (exec .gcmEnc { State.reset with
      msgLen := 4097, status := { State.reset.status with ksValid := true, ctxValid := true } }) = some 0x00007306 := by
  decide +kernel

/-! ### One step: blocks and modes on loaded states -/

theorem loaded_memWf (k iv inp : Bytes) : (loaded k iv inp).memWf = true :=
  State.memWf_setArr _ (State.memWf_setArr _ (State.memWf_setArr State.reset rfl _ _) _ _) _ _

theorem loaded_slice (k iv inp : Bytes) (x : Arr) (i n : Nat) : (loaded k iv inp).arrSlice x i n =
    (((State.reset.setArr .key k).setArr .iv iv).setArr .inBuf inp).arrSlice x i n := rfl

theorem loaded_key (k iv inp : Bytes) (nk : Nat) (hk : k.length = nk) (h32 : nk ≤ 32) : (loaded k iv inp).key nk = k := by
  have w1 := State.memWf_setArr State.reset rfl .key k
  rw [State.key, loaded_slice,
    State.arrSlice_setArr_apart _ (State.memWf_setArr _ w1 _ _) _ _ _ _ _ (by left; simp [Arr.base]; omega),
    State.arrSlice_setArr_apart _ w1 _ _ _ _ _ (by left; simp [Arr.base]; omega),
    State.arrSlice_setArr_same _ rfl _ _ _ hk.symm]

theorem loaded_iv (k iv inp : Bytes) (hi : iv.length = 16) : (loaded k iv inp).iv = iv := by
  have w1 := State.memWf_setArr State.reset rfl .key k
  rw [State.iv, loaded_slice,
    State.arrSlice_setArr_apart _ (State.memWf_setArr _ w1 _ _) _ _ _ _ _ (by left; simp [Arr.base]),
    State.arrSlice_setArr_same _ w1 _ _ _ hi.symm]

theorem loaded_input (k iv inp : Bytes) (n : Nat) (hn : n = inp.length) : (loaded k iv inp).input n = inp := by
  have w1 := State.memWf_setArr State.reset rfl .key k
  exact State.arrSlice_setArr_same _ (State.memWf_setArr _ w1 _ _) _ _ _ hn

theorem loaded_message (k iv inp : Bytes) (hn : inp.length < 65536) : (loaded k iv inp).message = inp :=
  loaded_input k iv inp _ (by simp [loaded, Nat.mod_eq_of_lt hn])

theorem hexBytes_length (n v : Nat) : (hexBytes n v).length = n := beBytes_length n v

/-- STATUS after a successful key command of an engine without a context. -/
theorem doneWord (op : BitVec 4) :
    Status.toWord { busy := false, ksValid := true, ctxValid := false, authOk := false, errCode := .ok, lastOp := op } =
      0x2 ||| (op.setWidth 32 <<< 12) := by
  revert op; decide

theorem loaded_keyLen (k iv inp : Bytes) : keyBytes (loaded k iv inp).ctrl.keyLen = some 16 := rfl

/-- ENC_BLOCK on a loaded state writes the block `c` that the cipher gives. -/
theorem loaded_encBlock (k iv b c : Bytes) (hk : k.length = 16) (hb : b.length = 16) (hc : c.length = 16)
    (h : aesEncrypt (expandKey k 16) 10 b = c) :
    ∃ t, exec .encBlock (loaded k iv b) = .next t ∧ t.output 16 = c ∧ regValue t .status = 0x00002002 := by
  refine ⟨_, exec_encBlock_ok _ 16 (loaded_keyLen k iv b), ?_, doneWord 0x2⟩
  rw [loaded_key k iv b 16 hk (by omega), loaded_input k iv b 16 hb.symm, show rounds 16 = 10 from rfl, h, State.output,
    State.arrSlice_complete]
  exact State.arrSlice_setArr_same _ (State.memWf_setSched _ (loaded_memWf ..) _) _ _ 16 hc.symm

/-- DEC_BLOCK on a loaded state writes the block `c` that the inverse cipher gives. -/
theorem loaded_decBlock (k iv b c : Bytes) (hk : k.length = 16) (hb : b.length = 16) (hc : c.length = 16)
    (h : aesDecrypt (expandKey k 16) 10 b = c) :
    ∃ t, exec .decBlock (loaded k iv b) = .next t ∧ t.output 16 = c ∧ regValue t .status = 0x00003002 := by
  refine ⟨_, exec_decBlock_ok _ 16 (loaded_keyLen k iv b), ?_, doneWord 0x3⟩
  rw [loaded_key k iv b 16 hk (by omega), loaded_input k iv b 16 hb.symm, show rounds 16 = 10 from rfl, h, State.output,
    State.arrSlice_complete]
  exact State.arrSlice_setArr_same _ (State.memWf_setSched _ (loaded_memWf ..) _) _ _ 16 hc.symm

/-- CBC_ENC on a loaded state writes the ciphertext `c` that the mode gives. -/
theorem loaded_cbcEnc (k iv m c : Bytes) (n : Nat) (hk : k.length = 16) (hi : iv.length = 16) (hm : m.length ≤ 4096)
    (hc : c.length = n) (hn : n = paddedLen m.length)
    (h : cbcEncrypt (aesEncrypt (expandKey k 16) 10) iv (pad m) = c) :
    ∃ t, exec .cbcEnc (loaded k iv m) = .next t ∧ t.output n = c ∧ regValue t .outLen = BitVec.ofNat 32 n ∧
      regValue t .status = 0x00004002 := by
  have hl : (loaded k iv m).msgLen.toNat = m.length := by simp [loaded, Nat.mod_eq_of_lt (show m.length < 65536 by omega)]
  refine ⟨_, exec_cbcEnc_ok _ 16 (loaded_keyLen k iv m) (by rw [hl]; exact hm) rfl, ?_, ?_, doneWord 0x4⟩
  · rw [State.cbcEncWrites, loaded_key k iv m 16 hk (by omega), loaded_iv k iv m hi, loaded_message k iv m (by omega),
      show rounds 16 = 10 from rfl, h, State.output, State.arrSlice_complete]
    exact State.arrSlice_setArr_same _ (State.memWf_setSched _ (loaded_memWf ..) _) _ _ n hc.symm
  · subst hn
    have : paddedLen m.length < 65536 := by unfold paddedLen; omega
    simp only [regValue, hl, State.complete_outLen]
    apply BitVec.eq_of_toNat_eq
    simp [Nat.mod_eq_of_lt this, Nat.mod_eq_of_lt (show paddedLen m.length < 4294967296 by omega)]

/-- §2.3 and program P1: ENC_BLOCK of the FIPS-197 block. -/
theorem test_encBlock : ∃ t, exec .encBlock (loaded (hexBytes 16 0x000102030405060708090a0b0c0d0e0f) (zeros 16)
      (hexBytes 16 0x00112233445566778899aabbccddeeff)) = .next t ∧
    t.output 16 = hexBytes 16 0x69c4e0d86a7b0430d8cdb78070b4c55a ∧ regValue t .status = 0x00002002 :=
  loaded_encBlock _ _ _ _ (hexBytes_length ..) (hexBytes_length ..) (hexBytes_length ..) test_aes128

/-- §2.3: DEC_BLOCK of 0^16 under the zero key. -/
theorem test_decBlock : ∃ t, exec .decBlock (loaded (zeros 16) (zeros 16) (zeros 16)) = .next t ∧
    t.output 16 = hexBytes 16 0x140f0f1011b5223d79587717ffd9ec3a ∧ regValue t .status = 0x00003002 :=
  loaded_decBlock _ _ _ _ (zeros_length 16) (zeros_length 16) (hexBytes_length ..) test_aesDecrypt

/-- §2.4 and program P2: CBC_ENC of the 20-byte message. -/
theorem test_cbcEnc : ∃ t, exec .cbcEnc (loaded (hexBytes 16 0x000102030405060708090a0b0c0d0e0f) (List.replicate 16 0xa5)
      (hexBytes 20 0x000102030405060708090a0b0c0d0e0f10111213)) = .next t ∧
    t.output 32 = hexBytes 32 0x3333b9a5b8d778bdfc68f1c467af67c5e52d56aaf7a177d2d755bd4fbe68de85 ∧
    regValue t .outLen = 32 ∧ regValue t .status = 0x00004002 :=
  loaded_cbcEnc _ _ _ _ 32 (hexBytes_length ..) List.length_replicate (by rw [hexBytes_length]; omega) (hexBytes_length ..)
    (by rw [hexBytes_length]; rfl) test_cbcEncrypt

/-- The key and the IV of §2.4's decryption table with the ciphertext `c`. -/
def cbcCase (c : Nat) : State :=
  loaded (hexBytes 16 0x2b7e151628aed2a6abf7158809cf4f3c) (hexBytes 16 0x000102030405060708090a0b0c0d0e0f) (hexBytes 16 c)

/-- What CBC_DEC decrypts there, before unpadding. -/
def cbcCaseOut (c : Nat) : Option Bytes :=
  unpad (cbcDecrypt (aesDecrypt (expandKey (hexBytes 16 0x2b7e151628aed2a6abf7158809cf4f3c) 16) 10)
    (hexBytes 16 0x000102030405060708090a0b0c0d0e0f) (hexBytes 16 c))

theorem cbcCase_len (c : Nat) : (cbcCase c).msgLen.toNat = 16 := by
  simp [cbcCase, loaded, hexBytes_length]

theorem loaded_unpad (k iv c : Bytes) (hk : k.length = 16) (hi : iv.length = 16) (hc : c.length = 16) :
    unpad (cbcDecrypt (aesDecrypt (expandKey ((loaded k iv c).key 16) 16) (rounds 16)) (loaded k iv c).iv
      (loaded k iv c).message) = unpad (cbcDecrypt (aesDecrypt (expandKey k 16) 10) iv c) := by
  rw [loaded_key k iv c 16 hk (by omega), loaded_iv k iv c hi, loaded_message k iv c (by omega)]; rfl

theorem cbcCase_unpad (c : Nat) : unpad (cbcDecrypt (aesDecrypt (expandKey ((cbcCase c).key 16) 16) (rounds 16)) (cbcCase c).iv
    (cbcCase c).message) = cbcCaseOut c :=
  loaded_unpad _ _ _ (hexBytes_length ..) (hexBytes_length ..) (hexBytes_length ..)

/-- CBC_DEC on such a case that decrypts to the message `m`. -/
theorem cbcCase_ok (c : Nat) (m : Bytes) (h : cbcCaseOut c = some m) : ∃ t, exec .cbcDec (cbcCase c) = .next t ∧
    t.output m.length = m ∧ t.outLen = BitVec.ofNat 16 m.length ∧ regValue t .status = 0x00005002 :=
  ⟨_, exec_cbcDec_ok _ 16 m rfl (by rw [cbcCase_len]; exact show ¬(16 = 0 ∨ 16 % 16 ≠ 0 ∨ 16 > 4096) by decide) ((cbcCase_unpad _).trans h),
    by
      rw [State.output, State.arrSlice_complete]
      exact State.arrSlice_setArr_same _ (State.memWf_setSched _ (loaded_memWf ..) _) _ _ _ rfl, rfl, doneWord 0x5⟩

/-- §2.4's row with 14 bytes of message. -/
theorem cbcCaseOut_good : cbcCaseOut 0x214d7609a4194d457c029bbd7166436a = some (List.replicate 14 0x41) := by decide +kernel

/-- §2.4's row with p = 0: the decrypted block. -/
theorem cbcCase_block : cbcDecrypt (aesDecrypt (expandKey (hexBytes 16 0x2b7e151628aed2a6abf7158809cf4f3c) 16) 10)
    (hexBytes 16 0x000102030405060708090a0b0c0d0e0f) (hexBytes 16 0xeb593b41c96ffe158076a92d64c0c365) =
      hexBytes 16 0x41414141414141414141414141414100 := by decide +kernel

theorem cbcCaseOut_bad : cbcCaseOut 0xeb593b41c96ffe158076a92d64c0c365 = none := by
  rw [cbcCaseOut, cbcCase_block]; decide

/-- §2.4: 14 bytes come out. -/
theorem test_cbcDec : ∃ t, exec .cbcDec (cbcCase 0x214d7609a4194d457c029bbd7166436a) = .next t ∧
    t.output 14 = List.replicate 14 0x41 ∧ t.outLen = 14 ∧ regValue t .status = 0x00005002 :=
  cbcCase_ok _ (List.replicate 14 0x41) cbcCaseOut_good

/-- §2.4: p = 0 is ERR_PAD. -/
theorem test_cbcDec_pad : ∃ t, exec .cbcDec (cbcCase 0xeb593b41c96ffe158076a92d64c0c365) = .next t ∧
    regValue t .status = 0x00005400 ∧ t.outLen = 0 :=
  ⟨_, exec_cbcDec_pad _ 16 rfl
    (by rw [cbcCase_len]; exact show ¬(16 = 0 ∨ 16 % 16 ≠ 0 ∨ 16 > 4096) by decide) ((cbcCase_unpad _).trans cbcCaseOut_bad), rfl, rfl⟩

/-! ### One step: GCM under the zero key and the nonce 0^12 (the source's §8 vector) -/

/-- The reset state with the nonce 0^12, a supplied tag of 16 bytes and a message loaded. -/
def gcmInput (inp tag : Bytes) : State :=
  { ((State.reset.setArr .nonceBuf (zeros 12)).setArr .inBuf inp).setArr .tag tag with
    nonceLen := 12, msgLen := BitVec.ofNat 16 inp.length, tagInLen := 16 }

/-- The same with the schedule `w` of the zero key and the context `h`, `j` in place. -/
def gcmContext (w h j inp tag : Bytes) : State := ((gcmInput inp tag).setSched w).setContext h j

theorem gcmInput_memWf (inp tag : Bytes) : (gcmInput inp tag).memWf = true :=
  State.memWf_setArr _ (State.memWf_setArr _ (State.memWf_setArr State.reset rfl _ _) _ _) _ _

/-- What the loaded arrays read as. -/
theorem gcmInput_reads (inp tag : Bytes) (hi : inp.length < 65536) (ht : tag.length = 16) :
    (gcmInput inp tag).key 16 = zeros 16 ∧ (gcmInput inp tag).nonce = zeros 12 ∧
    (gcmInput inp tag).message = inp ∧ (gcmInput inp tag).tag = tag := by
  have w1 : (State.reset.setArr .nonceBuf (zeros 12)).memWf = true := State.memWf_setArr State.reset rfl _ _
  have w2 := State.memWf_setArr _ w1 .inBuf inp
  have hs : ∀ x i n, (gcmInput inp tag).arrSlice x i n =
    (((State.reset.setArr .nonceBuf (zeros 12)).setArr .inBuf inp).setArr .tag tag).arrSlice x i n := fun _ _ _ => rfl
  have hl : (gcmInput inp tag).msgLen.toNat = inp.length := by simp [gcmInput, Nat.mod_eq_of_lt hi]
  refine ⟨?_, ?_, ?_, ?_⟩
  · rw [State.key, hs, State.arrSlice_setArr_apart _ w2 _ _ _ _ _ (by left; simp [Arr.base]),
      State.arrSlice_setArr_apart _ w1 _ _ _ _ _ (by left; simp [Arr.base]),
      State.arrSlice_setArr_apart _ rfl _ _ _ _ _ (by left; simp [Arr.base])]
    rfl
  · rw [State.nonce, hs, State.arrSlice_setArr_apart _ w2 _ _ _ _ _ (by right; rw [ht]; simp [Arr.base]),
      State.arrSlice_setArr_apart _ w1 _ _ _ _ _ (by left; simp [Arr.base, gcmInput]),
      State.arrSlice_setArr_same _ rfl _ _ _ (by simp [gcmInput])]
  · rw [State.message, State.input, hl, hs, State.arrSlice_setArr_apart _ w2 _ _ _ _ _ (by right; rw [ht]; simp [Arr.base]),
      State.arrSlice_setArr_same _ w1 _ _ _ rfl]
  · rw [State.tag, hs, State.arrSlice_setArr_same _ w2 _ _ _ ht.symm]

theorem gcmContext_slice (w h j inp tag : Bytes) (x : Arr) (i n : Nat) : (gcmContext w h j inp tag).arrSlice x i n =
    ((((gcmInput inp tag).setArr .sched (schedImage w)).setArr .hsub h).setArr .j0 j).arrSlice x i n := rfl

theorem gcmContext_memWf (w h j inp tag : Bytes) : (gcmContext w h j inp tag).memWf = true :=
  State.memWf_setArr _ (State.memWf_setArr _ (State.memWf_setArr _ (gcmInput_memWf inp tag) .sched (schedImage w)) .hsub h) .j0 j

/-- What the context's arrays read as. -/
theorem gcmContext_reads (w h j inp tag : Bytes) (hi : inp.length < 65536) (ht : tag.length = 16)
    (hw : (schedImage w).length = 240) (hh : h.length = 16) (hj : j.length = 16) :
    (gcmContext w h j inp tag).sched = schedImage w ∧ (gcmContext w h j inp tag).hsub = h ∧
    (gcmContext w h j inp tag).j0 = j ∧ (gcmContext w h j inp tag).key 16 = zeros 16 ∧
    (gcmContext w h j inp tag).nonce = zeros 12 ∧ (gcmContext w h j inp tag).message = inp ∧
    (gcmContext w h j inp tag).tag = tag := by
  have w0 := gcmInput_memWf inp tag
  have w1 := State.memWf_setArr _ w0 .sched (schedImage w)
  have w2 := State.memWf_setArr _ w1 .hsub h
  obtain ⟨h1, h2, h3, h4⟩ := gcmInput_reads inp tag hi ht
  have hl : (gcmContext w h j inp tag).msgLen = (gcmInput inp tag).msgLen := rfl
  have ha : ∀ x n, (x.base + n ≤ 0x140 ∨ 0x300 ≤ x.base) →
      (gcmContext w h j inp tag).arrSlice x 0 n = (gcmInput inp tag).arrSlice x 0 n := by
    intro x n hx
    rw [gcmContext_slice, State.arrSlice_setArr_apart _ w2 _ _ _ _ _ (by rw [hj, show Arr.base .j0 = 0x150 from rfl]; omega),
      State.arrSlice_setArr_apart _ w1 _ _ _ _ _ (by rw [hh, show Arr.base .hsub = 0x140 from rfl]; omega),
      State.arrSlice_setArr_apart _ w0 _ _ _ _ _ (by rw [hw, show Arr.base .sched = 0x200 from rfl]; omega)]
  refine ⟨?_, ?_, ?_, ?_, ?_, ?_, ?_⟩
  · rw [State.sched, gcmContext_slice, State.arrSlice_setArr_apart _ w2 _ _ _ _ _ (by right; rw [hj]; simp [Arr.base]),
      State.arrSlice_setArr_apart _ w1 _ _ _ _ _ (by right; rw [hh]; simp [Arr.base]),
      State.arrSlice_setArr_same _ w0 _ _ _ hw.symm]
  · rw [State.hsub, gcmContext_slice, State.arrSlice_setArr_apart _ w2 _ _ _ _ _ (by left; simp [Arr.base]),
      State.arrSlice_setArr_same _ w1 _ _ _ hh.symm]
  · rw [State.j0, gcmContext_slice, State.arrSlice_setArr_same _ w2 _ _ _ hj.symm]
  · exact (ha .key 16 (by left; simp [Arr.base])).trans h1
  · exact (ha .nonceBuf _ (by right; simp [Arr.base])).trans h2
  · exact (ha .inBuf _ (by right; simp [Arr.base])).trans h3
  · exact (ha .tag 16 (by left; simp [Arr.base])).trans h4

/-- The invariant holds in such a context when `w`, `h` and `j` are those of the zero key. -/
theorem gcmContext_inv (w h j inp tag : Bytes) (hi : inp.length < 65536) (ht : tag.length = 16)
    (hw : (schedImage w).length = 240) (hh : h.length = 16) (hj : j.length = 16) (ew : w = expandKey (zeros 16) 16)
    (eh : h = aesEncrypt w 10 (zeros 16)) (ej : j = deriveJ0 h (zeros 12)) : Inv (gcmContext w h j inp tag) := by
  obtain ⟨r1, r2, r3, r4, r5, -, -⟩ := gcmContext_reads w h j inp tag hi ht hw hh hj
  refine ⟨show Config.reference.wf = true by decide, gcmContext_memWf w h j inp tag, fun _ => ⟨16, rfl, ?_⟩, fun _ => ⟨rfl, ?_, ?_, ?_, ?_, ?_, 16, rfl, ?_, ?_⟩,
    ?_, ?_, ?_, ?_⟩
  · rw [r1, r4, ew]
  · exact show 1 ≤ 16 by omega
  · exact show 16 ≤ 16 by omega
  · exact show 1 ≤ 12 by omega
  · exact show 12 ≤ 256 by omega
  · exact show 0 ≤ 1024 by omega
  · rw [r1, r2, aesEncrypt_schedImage]; exact eh
  · rw [r2, r3, r5]; exact ej
  · intro hb; cases hb
  · intro hb; cases hb
  · exact ⟨fun hb => (by cases hb), fun hb => absurd hb.1 (show ¬(0 : BitVec 4) = 0x8 by decide)⟩
  · exact show ErrCode.ok ≠ .internal by decide

/-- The schedule of the zero key has 176 bytes, so its image in SCHED has 240. -/
theorem zeroKey_image : (schedImage (expandKey (zeros 16) 16)).length = 240 := by decide +kernel

/-- §1.1's context, with the message `inp` and the supplied tag `tag`. -/
def context8 (inp tag : Bytes) : State :=
  gcmContext (expandKey (zeros 16) 16) (hexBytes 16 0x66e94bd4ef8a2c3b884cfa59ca342b2e) (hexBytes 16 1) inp tag

theorem context8_inv (inp tag : Bytes) (hi : inp.length < 65536) (ht : tag.length = 16) : Inv (context8 inp tag) :=
  gcmContext_inv _ _ _ inp tag hi ht zeroKey_image (hexBytes_length ..) (hexBytes_length ..) rfl test_gcm_hsub.symm
    test_deriveJ0.1.symm

/-- What GCM_INIT leaves when the cipher gives `h` and the nonce `j`. -/
theorem gcmInput_init (w h j inp tag : Bytes) (hi : inp.length < 65536) (ht : tag.length = 16)
    (hh : h.length = 16) (hj : j.length = 16) (ew : expandKey (zeros 16) 16 = w) (eh : aesEncrypt w 10 (zeros 16) = h)
    (ej : deriveJ0 h (zeros 12) = j) : ∃ t, exec .gcmInit (gcmInput inp tag) = .next t ∧ t.hsub = h ∧ t.j0 = j ∧
      regValue t .status = 0x00006006 := by
  obtain ⟨h1, h2, -, -⟩ := gcmInput_reads inp tag hi ht
  refine ⟨_, exec_gcmInit_ok _ 16 rfl (show ¬(16 < 1 ∨ 16 > 16) by omega) (show ¬(12 = 0 ∨ 12 > 256) by omega)
    (show 0 ≤ 1024 by omega), ?_, ?_, ?_⟩
  · rw [h1, h2, ew, show rounds 16 = 10 from rfl, eh, ej, State.hsub, State.arrSlice_complete, State.arrSlice_setContext,
      State.arrSlice_setArr_apart _ (State.memWf_setArr _ (State.memWf_setSched _ (gcmInput_memWf inp tag) _) _ _) _ _ _ _ _
        (by left; simp [Arr.base]),
      State.arrSlice_setArr_same _ (State.memWf_setSched _ (gcmInput_memWf inp tag) _) _ _ _ hh.symm]
  · rw [h1, h2, ew, show rounds 16 = 10 from rfl, eh, ej, State.j0, State.arrSlice_complete, State.arrSlice_setContext,
      State.arrSlice_setArr_same _ (State.memWf_setArr _ (State.memWf_setSched _ (gcmInput_memWf inp tag) _) _ _) _ _ _ hj.symm]
  · exact show Status.toWord { busy := false, ksValid := true, ctxValid := true, authOk := false, errCode := .ok, lastOp := 6 } = _
      by decide

/-- §1.1 and program P3: GCM_INIT's HSUB and J0. -/
theorem test_gcmInit : ∃ t, exec .gcmInit (gcmInput (zeros 16) (zeros 16)) = .next t ∧
    t.hsub = hexBytes 16 0x66e94bd4ef8a2c3b884cfa59ca342b2e ∧ t.j0 = hexBytes 16 1 ∧ regValue t .status = 0x00006006 :=
  gcmInput_init _ _ _ _ _ (by rw [zeros_length]; omega) (zeros_length 16) (hexBytes_length ..) (hexBytes_length ..) rfl
    test_gcm_hsub test_deriveJ0.1

/-- Context facts for GCM_ENC and GCM_DEC: the cipher reads SCHED as it reads the schedule. -/
theorem aesEncrypt_image (w : Bytes) : aesEncrypt (schedImage w) 10 = aesEncrypt w 10 :=
  funext fun b => aesEncrypt_schedImage w 10 b

/-- What GCM_ENC leaves in such a context. -/
theorem gcmContext_enc (w h j inp tag c t : Bytes) (hi : inp.length ≤ 4096) (hg : tag.length = 16)
    (hw : (schedImage w).length = 240) (hh : h.length = 16) (hj : j.length = 16) (hc : c.length = inp.length)
    (ht : t.length = 16) (ec : gctr (aesEncrypt w 10) (inc32 j) inp = c) (et : computeTag (aesEncrypt w 10) h j [] c 16 = t) :
    ∃ u, exec .gcmEnc (gcmContext w h j inp tag) = .next u ∧ u.output inp.length = c ∧ u.tag = t ∧ u.tagInLen = 16 ∧
      regValue u .status = 0x00007006 := by
  obtain ⟨r1, r2, r3, -, -, r6, -⟩ := gcmContext_reads w h j inp tag (by omega) hg hw hh hj
  have hl : (gcmContext w h j inp tag).msgLen.toNat = inp.length := by
    simp [gcmContext, gcmInput, Nat.mod_eq_of_lt (show inp.length < 65536 by omega)]
  have w0 := gcmContext_memWf w h j inp tag
  have ha : (gcmContext w h j inp tag).aad = [] := rfl
  have htl : (t ++ zeros (16 - 16)).length = 16 := by simp [ht]
  have e1 : (gcmContext w h j inp tag).computeTag (aesEncrypt w 10) c = t := by
    rw [State.computeTag, r2, r3, ha]; exact et
  refine ⟨_, exec_gcmEnc_ok _ 16 rfl rfl (by rw [hl]; exact hi), ?_, ?_, rfl, ?_⟩
  · rw [r1, r3, r6, show rounds 16 = 10 from rfl, aesEncrypt_image, ec, e1, State.output, State.arrSlice_complete,
      State.arrSlice_gcmEncWrites,
      State.arrSlice_setArr_apart _ (State.memWf_setArr _ w0 _ _) _ _ _ _ _ (by
        right; rw [show (gcmContext w h j inp tag).ctrl.tagLen.toNat = 16 from rfl, htl]; simp [Arr.base]),
      State.arrSlice_setArr_same _ w0 _ _ _ hc.symm]
  · rw [r1, r3, r6, show rounds 16 = 10 from rfl, aesEncrypt_image, ec, e1, State.tag, State.arrSlice_complete,
      State.arrSlice_gcmEncWrites, show (gcmContext w h j inp tag).ctrl.tagLen.toNat = 16 from rfl,
      State.arrSlice_setArr_same _ (State.memWf_setArr _ w0 _ _) _ _ _ htl.symm]
    simp [zeros]
  · exact show Status.toWord { busy := false, ksValid := true, ctxValid := true, authOk := false, errCode := .ok, lastOp := 7 } = _
      by decide

/-- §1.1, the source's own vector: GCM_ENC's ciphertext and tag. -/
theorem test_gcmEnc : ∃ u, exec .gcmEnc (context8 (zeros 16) (zeros 16)) = .next u ∧
    u.output (zeros 16).length = hexBytes 16 0x0388dace60b6a392f328c2b971b2fe78 ∧
    u.tag = hexBytes 16 0xab6e47d42cec13bdf53a67b21257bddf ∧ u.tagInLen = 16 ∧ regValue u .status = 0x00007006 :=
  gcmContext_enc _ _ _ _ _ _ _ (by rw [zeros_length]; omega) (zeros_length 16) zeroKey_image (hexBytes_length ..)
    (hexBytes_length ..) (by rw [zeros_length]; exact hexBytes_length ..) (hexBytes_length ..) test_gcm_ciphertext test_gcm_tag

/-- What GCM_DEC does in such a context: the tag `t` of the input is compared with the supplied one. -/
theorem gcmContext_dec (w h j inp tag t : Bytes) (hi : inp.length ≤ 4096) (hg : tag.length = 16)
    (hw : (schedImage w).length = 240) (hh : h.length = 16) (hj : j.length = 16)
    (et : computeTag (aesEncrypt w 10) h j [] inp 16 = t) :
    (tagOk false 16 t tag 16 = true → ∃ u, exec .gcmDec (gcmContext w h j inp tag) = .next u ∧
      regValue u .status = 0x0000800E) ∧
    (tagOk false 16 t tag 16 = false → ∃ u, exec .gcmDec (gcmContext w h j inp tag) = .next u ∧
      regValue u .status = 0x00008906 ∧ u.outLen = 0 ∧ u.mem = (gcmContext w h j inp tag).mem) := by
  obtain ⟨r1, r2, r3, -, -, r6, r7⟩ := gcmContext_reads w h j inp tag (by omega) hg hw hh hj
  have hl : (gcmContext w h j inp tag).msgLen.toNat = inp.length := by
    simp [gcmContext, gcmInput, Nat.mod_eq_of_lt (show inp.length < 65536 by omega)]
  have ha : (gcmContext w h j inp tag).aad = [] := rfl
  have e1 : (gcmContext w h j inp tag).computeTag (aesEncrypt (gcmContext w h j inp tag).sched (rounds 16))
      (gcmContext w h j inp tag).message = t := by
    rw [State.computeTag, r1, r2, r3, r6, ha, show rounds 16 = 10 from rfl, aesEncrypt_image]; exact et
  refine ⟨fun hok => ⟨_, exec_gcmDec_ok _ 16 rfl rfl (by rw [hl]; exact hi) (by rw [e1, r7]; exact hok), ?_⟩,
    fun hok => ⟨_, exec_gcmDec_auth _ 16 rfl rfl (by rw [hl]; exact hi) (by rw [e1, r7]; exact hok), ?_, rfl, rfl⟩⟩
  · exact show Status.toWord { busy := false, ksValid := true, ctxValid := true, authOk := true, errCode := .ok, lastOp := 8 } = _
      by decide
  · exact show Status.toWord { busy := false, ksValid := true, ctxValid := true, authOk := false, errCode := .auth, lastOp := 8 } = _
      by decide

/-- Program P3: GCM_DEC of the §8 ciphertext sets AUTH_OK. -/
theorem test_gcmDec : ∃ u, exec .gcmDec (context8 (hexBytes 16 0x0388dace60b6a392f328c2b971b2fe78)
    (hexBytes 16 0xab6e47d42cec13bdf53a67b21257bddf)) = .next u ∧ regValue u .status = 0x0000800E :=
  (gcmContext_dec _ _ _ _ _ _ (by rw [hexBytes_length]; omega) (hexBytes_length ..) zeroKey_image (hexBytes_length ..)
    (hexBytes_length ..) test_gcm_tag).1 (by decide +kernel)

/-- Program P3: with the last tag bit flipped it is ERR_AUTH, and nothing is written. -/
theorem test_gcmDec_auth : ∃ u, exec .gcmDec (context8 (hexBytes 16 0x0388dace60b6a392f328c2b971b2fe78)
    (hexBytes 16 0xab6e47d42cec13bdf53a67b21257bdde)) = .next u ∧ regValue u .status = 0x00008906 ∧ u.outLen = 0 ∧
      u.mem = (context8 (hexBytes 16 0x0388dace60b6a392f328c2b971b2fe78) (hexBytes 16 0xab6e47d42cec13bdf53a67b21257bdde)).mem :=
  (gcmContext_dec _ _ _ _ _ _ (by rw [hexBytes_length]; omega) (hexBytes_length ..) zeroKey_image (hexBytes_length ..)
    (hexBytes_length ..) test_gcm_tag).2 (by decide +kernel)

/-! ### One step: the bus -/

/-- §2.6: BUSY = 1: a KEY read gives 0, STATUS its true value with BUSY = 1, a KEY write sets BUSYERR with OKAY. -/
theorem test_busy :
    responseOf (step (running 0x1 [.read .word 0x0100])) = some (.data 0) ∧
    responseOf (step (running 0x1 [.read .word 0x0018])) = some (.data 0x00000001) ∧
    responseOf (step (running 0x1 [.write .word 0x0100 0x11111111])) = some .okay ∧
    intStatusOf (step (running 0x1 [.write .word 0x0100 0x11111111])) = some 0x4 ∧
    intStatusOf (step (running 0x1 [.write .word 0x0014 0x2])) = some 0x4 := by decide

/-- §2.6: a reserved offset, a read-only register, a narrow register access and a misaligned access are bus errors. -/
theorem test_busError :
    responseOf (step (host (.read .word 0x0038))) = some (.error (.busError 0x0038)) ∧
    responseOf (step (host (.write .word 0x0018 0x0))) = some (.error (.busError 0x0018)) ∧
    responseOf (step (host (.read .half 0x0010))) = some (.error (.busError 0x0010)) ∧
    responseOf (step (host (.write .half 0x0101 0x0))) = some (.error (.busError 0x0101)) ∧
    responseOf (step (running 0x1 [.write .word 0x0018 0x0])) = some (.error (.busError 0x0018)) := by decide

/-- 20_memory.md R53: `W8 KEY+5, 0xAA` changes KEY[5] alone; the word of KEY+4 then reads 0x0000AA00. -/
theorem test_byteLane :
    responseOf (step { State.reset with mem := [(0x105, 0xAA)], events := [.read .word 0x0104] }) = some (.data 0x0000AA00) ∧
    responseOf (step { State.reset with mem := [(0x105, 0xAA)], events := [.read .half 0x0104] }) = some (.data 0x0000AA00) ∧
    memOf (step (host (.write .byte 0x0105 0x123456AA))) = some [(0x105, 0xAA)] := by decide

/-- §2.6: `W32 CTRL, 0xFFFFFFFF` reads back 0x00001F0F and clears both validity flags. -/
theorem test_ctrl :
    let s := { host (.write .word 0x0010 0xFFFFFFFF) with
      status := { State.reset.status with ksValid := true, ctxValid := true } }
    registerOf .ctrl (step s) = some 0x00001F0F ∧ registerOf .status (step s) = some 0 := by decide

/-- 10_state.md R22 and R24: KEYLEN = 2, IVGEN = 1, TAGCMP = 0 and TAGLEN = 10 are 0x0A06; KS_VALID, ERR_PAD (4) and LASTOP = 5 are
0x5402. -/
theorem test_fields :
    after State.ctrl (step (host (.write .word 0x0010 0x00000A06))) =
      some { keyLen := 2, ivGen := true, tagCmp := false, tagLen := 10 } ∧
    responseOf (step { host (.read .word 0x0018) with
      status := { busy := false, ksValid := true, ctxValid := false, authOk := false, errCode := .pad, lastOp := 5 } }) =
      some (.data 0x00005402) := by decide

/-- 10_state.md R25: a write of 0x2 to INT_STATUS clears ERR alone. -/
theorem test_clearErr :
    after State.intStatus (step { host (.write .word 0x001C 0x2) with
      intStatus := { done := true, err := true, busyErr := true } }) = some { done := true, err := false, busyErr := true } := by
  decide

/-- The reset state of an instance whose window begins at 0x40000000, with one event to come. -/
def placed (e : Event) : State := { host e with cfg := { Config.reference with base := 0x40000000 } }

/-- 20_memory.md R44: the window's first address reads ID; the addresses just below it and just above it are not AESC's; a
write inside it reaches CTRL. -/
theorem test_window :
    responseOf (step (placed (.busRead .word 0x40000000))) = some (.data 0x41455343) ∧
    responseOf (step (placed (.busRead .byte 0x4000FFFF))) = some (.error (.busError 0xFFFF)) ∧
    after State.response (step (placed (.busRead .byte 0x3FFFFFFF))) = some none ∧
    after State.response (step (placed (.busRead .word 0x40010000))) = some none ∧
    registerOf .ctrl (step (placed (.busWrite .word 0x40000010 0x00000A06))) = some 0x00000A06 := by decide

/-- §2.6: INT_STATUS = 0x7, `W32 INT_STATUS, 0x5` leaves 0x2; IRQ follows the enabled bits. -/
theorem test_interrupts :
    intStatusOf (step { host (.write .word 0x001C 0x5) with intStatus := { done := true, err := true, busyErr := true } }) =
      some 0x2 ∧
    State.irq { State.reset with
      intStatus := { done := false, err := true, busyErr := false }
      intEnable := { done := true, err := false, busyErr := false } } = false ∧
    State.irq { State.reset with
      intStatus := { done := false, err := true, busyErr := false }
      intEnable := { done := false, err := true, busyErr := false } } = true := by decide

/-- 30_encoding.md R67: a POLL whose value is not there gives the engine its turn and reads again. -/
theorem test_poll :
    eventsOf (step (running 0xF [.poll 0x0018 0x1 0x0])) = some [.engine, .poll 0x0018 0x1 0x0] ∧
    responseOf (step (running 0xF [.poll 0x0018 0x1 0x0])) = some (.data 0x1) ∧
    eventsOf (step (host (.poll 0x0018 0x1 0x0))) = some [] ∧
    responseOf (step (host (.poll 0x0018 0x1 0x0))) = some (.data 0x0) := by decide

/-- 30_encoding.md R68: LOAD of five bytes is one word and one byte; CMD writes the encoded word. -/
theorem test_script :
    Script.load 0x0300 [0x01, 0x02, 0x03, 0x04, 0x05] = [.write .word 0x0300 0x04030201, .write .byte 0x0304 0x05] ∧
    Script.dump 0x8000 6 = [.read .word 0x8000, .read .byte 0x8004, .read .byte 0x8005] ∧
    Script.run .gcmEnc = [.write .word 0x0014 0x7, .poll 0x0018 0x1 0x0] := by decide

/-! ### Witnesses: each statement's hypotheses are met by a concrete state, clause by clause -/

theorem witness_DecodeEncodeAgree :
    Instr.wellFormed .nop = true ∧ Instr.wellFormed (.reservedCF 0xF) = true ∧
    encode (.reservedAB 0xB) = encode (.reservedAB 0xB) := by decide

theorem witness_ResetEventAbandonsTheCommand : (running 0x4 [.reset, .engine]).events = .reset :: [.engine] := rfl

theorem witness_ResetMeetsTheInvariant :
    Config.wf Config.reference = true ∧ Config.wf { base := 0x1, maxMsg := 16, maxAad := 16, maxNonce := 16 } = true ∧
    Config.wf { base := 0x40000000, maxMsg := 16368, maxAad := 4096, maxNonce := 256 } = true := by decide

/-- A context is in place, so no part of the invariant is empty; the next step is the engine's. -/
theorem witness_StepKeepsTheInvariant : Inv (context8 [] (zeros 16)) ∧ ∃ t, step (context8 [] (zeros 16)) = .next t :=
  ⟨context8_inv [] _ (by decide) (zeros_length 16), _, rfl⟩

theorem witness_ReachableStatesMeetR79 : Reachable State.reset := Reachable.reset Config.reference (by decide)

theorem witness_StepKeepsTheMemoryForm :
    (context8 [] (zeros 16)).memWf = true ∧ ∃ t, step (context8 [] (zeros 16)) = .next t :=
  ⟨(context8_inv [] _ (by decide) (zeros_length 16)).memOk, _, rfl⟩

theorem witness_NoStepStops : Inv (context8 [] (zeros 16)) := context8_inv [] _ (by decide) (zeros_length 16)

theorem witness_ParametersAreConstant : ∃ t, step (host .reset) = .next t := ⟨_, rfl⟩

theorem witness_EngineStepRunsThePendingCommand :
    ((running 0xF [.engine]).events = .engine :: [] ∧ (running 0xF []).events = []) ∧
    ((running 0xF []).status.busy = true ∧ Instr.wellFormed (.reservedCF 0xF) = true ∧
      opcode (.reservedCF 0xF) = (running 0xF []).pendingOp) ∧
    (host .engine).status.busy = false := by decide

theorem witness_CmdWriteIssuesTheCommand :
    (host (.write .word 0x0014 0xFFFFFFF0)).events = .write .word 0x0014 0xFFFFFFF0 :: [] ∧
    (host (.write .word 0x0014 0xFFFFFFF0)).status.busy = false ∧ (0xFFFFFFF0 : Word).extractLsb' 0 4 = 0x0 ∧
    (host (.write .word 0x0014 0x1)).events = .write .word 0x0014 0x1 :: [] ∧ (0x1 : Word).extractLsb' 0 4 ≠ 0x0 ∧
    (0xF : Word).extractLsb' 0 4 ≠ 0x0 ∧
    (running 0x1 [.write .word 0x0014 0x2]).events = .write .word 0x0014 0x2 :: [] ∧
    (running 0x1 [.write .word 0x0014 0x2]).status.busy = true := by decide

theorem witness_NopChangesNothing :
    (host (.write .word 0x0014 0x10)).events = .write .word 0x0014 0x10 :: [] ∧ (0x10 : Word).extractLsb' 0 4 = 0x0 ∧
    (host (.write .word 0x0014 0x10)).status.busy = false ∧ (running 0x1 [.write .word 0x0014 0x0]).status.busy = true := by
  decide

theorem witness_ReservedOpcodesFailWithBadOp :
    Instr.wellFormed (.reservedAB 0xA) = true ∧ Instr.wellFormed (.reservedAB 0xB) = true ∧
    Instr.wellFormed (.reservedCF 0xC) = true ∧ Instr.wellFormed (.reservedCF 0xF) = true := by decide

/-- The second clause: an idle write of 0x9, and of a word with every bit set. -/
theorem witness_ReservedOpcodes_issue :
    (host (.write .word 0x0014 0x00000009)).events = .write .word 0x0014 0x00000009 :: [] ∧
    (host (.write .word 0x0014 0xFFFFFFFF)).events = .write .word 0x0014 0xFFFFFFFF :: [] ∧
    (host (.write .word 0x0014 0x00000009)).status.busy = false ∧
    0x9 ≤ ((0x00000009 : Word).extractLsb' 0 4).toNat ∧ 0x9 ≤ ((0xFFFFFFFF : Word).extractLsb' 0 4).toNat := by decide

/-- For KEYEXP, ENC_BLOCK and DEC_BLOCK alike: the three key sizes and the undefined KEYLEN. -/
theorem witness_KeyCommands :
    (keyed 0b00).memWf = true ∧ keyBytes (keyed 0b00).ctrl.keyLen = some 16 ∧ keyBytes (keyed 0b01).ctrl.keyLen = some 24 ∧
    (keyed 0b10).memWf = true ∧ keyBytes (keyed 0b10).ctrl.keyLen = some 32 ∧
    (keyed 0b11).memWf = true ∧ (keyed 0b11).ctrl.keyLen = 0b11 := by decide

theorem witness_KeyexpExpandsTheKey : (keyed 0b10).memWf = true ∧ keyBytes (keyed 0b10).ctrl.keyLen = some 32 := by decide
theorem witness_EncBlockEncryptsTheBlock : (keyed 0b01).memWf = true ∧ keyBytes (keyed 0b01).ctrl.keyLen = some 24 := by decide
theorem witness_DecBlockDecryptsTheBlock : (keyed 0b00).memWf = true ∧ keyBytes (keyed 0b00).ctrl.keyLen = some 16 := by decide

theorem witness_BlockCommandsIgnoreMsgLen :
    (∃ t, exec .encBlock State.reset = .next t) ∧ ∃ t, exec .decBlock (keyed 0b11) = .next t :=
  ⟨⟨_, exec_encBlock_ok State.reset 16 rfl⟩, ⟨_, exec_decBlock_keyLen (keyed 0b11) rfl⟩⟩

/-- The reset state with MSG_LEN = `n`. -/
def messageLen (n : BitVec 16) : State := { State.reset with msgLen := n }

/-- The reset state with TAGLEN, NONCE_LEN and AAD_LEN. -/
def gcmLens (t : BitVec 5) (n a : BitVec 16) : State :=
  { State.reset with ctrl := { State.reset.ctrl with tagLen := t }, nonceLen := n, aadLen := a }

/-- The reset state with both validity flags set and MSG_LEN = `n` (the hypotheses of GCM's clauses ask no more). -/
def validContext (n : BitVec 16) : State :=
  { messageLen n with status := { State.reset.status with ksValid := true, ctxValid := true } }

/-- The parts of the hypotheses that hold whatever the lengths are. -/
theorem lengths_free (n : BitVec 16) (t : BitVec 5) (k a : BitVec 16) :
    ((messageLen n).memWf = true ∧ (messageLen n).cfg.wf = true ∧ keyBytes (messageLen n).ctrl.keyLen = some 16 ∧
      (messageLen n).ctrl.keyLen ≠ 0b11 ∧ (messageLen n).ctrl.ivGen = false) ∧
    ((validContext n).memWf = true ∧ keyBytes (validContext n).ctrl.keyLen = some 16 ∧
      (validContext n).ctrl.tagLen.toNat ≤ 16 ∧ (validContext n).status.ctxValid = true) ∧
    ((gcmLens t k a).memWf = true ∧ keyBytes (gcmLens t k a).ctrl.keyLen = some 16 ∧ (gcmLens t k a).ctrl.keyLen ≠ 0b11) :=
  ⟨⟨rfl, show Config.reference.wf = true by decide, rfl, show (0 : BitVec 2) ≠ 0b11 by decide, rfl⟩,
    ⟨rfl, rfl, show 16 ≤ 16 by omega, rfl⟩, ⟨rfl, rfl, show (0 : BitVec 2) ≠ 0b11 by decide⟩⟩

/-- MSG_LEN = 0 and MSG_LEN = MAX_MSG succeed, MAX_MSG + 1 fails; so does KEYLEN = 0b11 (lengths_free has the rest). -/
theorem witness_CbcEncEncryptsUnderTheIvRegister :
    (messageLen 0).msgLen.toNat ≤ (messageLen 0).cfg.maxMsg ∧ (messageLen 4096).msgLen.toNat ≤ (messageLen 4096).cfg.maxMsg ∧
    ((keyed 0b11).memWf = true ∧ (keyed 0b11).cfg.wf = true ∧ (keyed 0b11).ctrl.keyLen = 0b11) ∧
    (messageLen 4097).cfg.maxMsg < (messageLen 4097).msgLen.toNat := by decide

/-- The reset state with IVGEN = 1, CBC_ENC running and a draw standing on the RNG port or not. -/
def drawing (port : Option (Vector Byte 16)) (es : List Event) : State :=
  { running 0x4 es with ctrl := { State.reset.ctrl with ivGen := true }, rngPort := port }

theorem witness_CbcEncTakesTheDraw :
    (drawing (some (Vector.replicate 16 0x5A)) []).memWf = true ∧ (drawing (some (Vector.replicate 16 0x5A)) []).cfg.wf = true ∧
    keyBytes (drawing (some (Vector.replicate 16 0x5A)) []).ctrl.keyLen = some 16 ∧
    (drawing (some (Vector.replicate 16 0x5A)) []).msgLen.toNat ≤ (drawing (some (Vector.replicate 16 0x5A)) []).cfg.maxMsg ∧
    (drawing (some (Vector.replicate 16 0x5A)) []).ctrl.ivGen = true ∧
    (drawing (some (Vector.replicate 16 0x5A)) []).rngPort = some (Vector.replicate 16 0x5A) := by decide

theorem witness_CbcEncWaitsForTheDraw :
    let s := drawing none [.engine, .rng (Vector.replicate 16 0x5A), .engine]
    s.ctrl.keyLen ≠ 0b11 ∧ s.msgLen.toNat ≤ s.cfg.maxMsg ∧ s.ctrl.ivGen = true ∧ s.rngPort = none ∧ s.status.busy = true ∧
    s.pendingOp = 0x4 ∧ s.events = .engine :: .rng (Vector.replicate 16 0x5A) :: .engine :: [] := by decide

/-- The key command clause with a good and a bad padding; MSG_LEN = 0, 17 and MAX_MSG + 16 fail. -/
theorem witness_CbcDecDecryptsAndUnpads :
    (cbcCase 0x214d7609a4194d457c029bbd7166436a).memWf = true ∧
    (cbcCase 0x214d7609a4194d457c029bbd7166436a).cfg.wf = true ∧
    keyBytes (cbcCase 0x214d7609a4194d457c029bbd7166436a).ctrl.keyLen = some 16 ∧
    (cbcCase 0x214d7609a4194d457c029bbd7166436a).msgLen.toNat = 16 ∧
    cbcCaseOut 0x214d7609a4194d457c029bbd7166436a = some (List.replicate 14 0x41) ∧
    cbcCaseOut 0xeb593b41c96ffe158076a92d64c0c365 = none ∧
    ((keyed 0b11).memWf = true ∧ (keyed 0b11).cfg.wf = true ∧ (keyed 0b11).ctrl.keyLen = 0b11) ∧
    ((messageLen 0).msgLen.toNat = 0 ∧ (messageLen 17).msgLen.toNat % 16 ≠ 0 ∧
      (messageLen 4112).cfg.maxMsg < (messageLen 4112).msgLen.toNat) :=
  ⟨loaded_memWf .., show Config.reference.wf = true by decide, rfl, cbcCase_len _, cbcCaseOut_good, cbcCaseOut_bad,
    by decide, by decide⟩

/-- The boundaries of TAGLEN (1, 16; 0, 17), NONCE_LEN (1, 256; 0, 257) and AAD_LEN (0, 1024; 1025); lengths_free has the
other hypotheses of these states. -/
theorem witness_GcmInitBuildsTheContext :
    (1 ≤ (gcmLens 1 1 0).ctrl.tagLen.toNat ∧ (gcmLens 1 1 0).ctrl.tagLen.toNat ≤ 16 ∧ 1 ≤ (gcmLens 1 1 0).nonceLen.toNat ∧
      (gcmLens 1 1 0).nonceLen.toNat ≤ (gcmLens 1 1 0).cfg.maxNonce ∧ (gcmLens 1 1 0).aadLen.toNat ≤ (gcmLens 1 1 0).cfg.maxAad) ∧
    ((gcmLens 16 256 1024).ctrl.tagLen.toNat ≤ 16 ∧ (gcmLens 16 256 1024).nonceLen.toNat ≤ (gcmLens 16 256 1024).cfg.maxNonce ∧
      (gcmLens 16 256 1024).aadLen.toNat ≤ (gcmLens 16 256 1024).cfg.maxAad) ∧
    ((keyed 0b11).memWf = true ∧ (keyed 0b11).ctrl.keyLen = 0b11) ∧
    ((gcmLens 0 1 0).ctrl.tagLen.toNat < 1 ∧ 16 < (gcmLens 17 1 0).ctrl.tagLen.toNat) ∧
    (1 ≤ (gcmLens 16 0 0).ctrl.tagLen.toNat ∧ (gcmLens 16 0 0).ctrl.tagLen.toNat ≤ 16 ∧ (gcmLens 16 0 0).nonceLen.toNat = 0 ∧
      (gcmLens 16 257 0).cfg.maxNonce < (gcmLens 16 257 0).nonceLen.toNat) ∧
    (1 ≤ (gcmLens 16 256 1025).nonceLen.toNat ∧ (gcmLens 16 256 1025).nonceLen.toNat ≤ (gcmLens 16 256 1025).cfg.maxNonce ∧
      (gcmLens 16 256 1025).cfg.maxAad < (gcmLens 16 256 1025).aadLen.toNat) := by decide

/-- The boundaries of MSG_LEN (0, MAX_MSG; MAX_MSG + 1), and no context. -/
theorem witness_GcmEncEncryptsAndTags :
    (validContext 0).msgLen.toNat ≤ (validContext 0).cfg.maxMsg ∧ (validContext 4096).msgLen.toNat ≤ (validContext 4096).cfg.maxMsg ∧
    State.reset.status.ctxValid = false ∧ (validContext 4097).cfg.maxMsg < (validContext 4097).msgLen.toNat := by decide

/-- Both answers of the tag check, on the §8 ciphertext. -/
theorem witness_GcmDecChecksTheTagThenDecrypts :
    (∃ u, exec .gcmDec (context8 (hexBytes 16 0x0388dace60b6a392f328c2b971b2fe78)
      (hexBytes 16 0xab6e47d42cec13bdf53a67b21257bddf)) = .next u ∧ regValue u .status = 0x0000800E) ∧
    (∃ u, exec .gcmDec (context8 (hexBytes 16 0x0388dace60b6a392f328c2b971b2fe78)
      (hexBytes 16 0xab6e47d42cec13bdf53a67b21257bdde)) = .next u ∧ regValue u .status = 0x00008906) ∧
    (context8 [] (zeros 16)).memWf = true ∧ keyBytes (context8 [] (zeros 16)).ctrl.keyLen = some 16 ∧
    (context8 [] (zeros 16)).status.ctxValid = true ∧ State.reset.status.ctxValid = false ∧
    ((validContext 4097).status.ctxValid = true ∧ (validContext 4097).cfg.maxMsg < (validContext 4097).msgLen.toNat) :=
  ⟨test_gcmDec, test_gcmDec_auth.imp fun _ h => ⟨h.1, h.2.1⟩, gcmContext_memWf .., rfl, rfl, rfl, by decide⟩

theorem witness_CommandsReportTheFirstFailingCheck :
    Inv (context8 [] (zeros 16)) ∧ Instr.wellFormed .gcmDec = true ∧ Instr.gcmDec ≠ .nop :=
  ⟨context8_inv [] _ (by decide) (zeros_length 16), by decide, by decide⟩

theorem witness_FailedCommandsWriteNoResult :
    (running 0x6 []).status.busy = true ∧ Instr.gcmInit ≠ .nop ∧
    ∃ t, exec .gcmInit (running 0x6 []) = .next t ∧ t.status.busy = false ∧ t.status.errCode ≠ .ok :=
  ⟨rfl, by decide, _, exec_gcmInit_nonceLen (running 0x6 []) (by decide) (by decide) (by decide), rfl, by decide⟩

theorem witness_CommandsWriteOnlyTheirResults :
    State.reset.memWf = true ∧ State.reset.cfg.wf = true ∧ ∃ t, exec .keyexp State.reset = .next t :=
  ⟨rfl, by decide, _, exec_keyexp_ok State.reset 16 rfl⟩

theorem witness_CommandsReadNoHostFlag :
    ∃ s s' t : State, Instr.keyexp ≠ .nop ∧
      s' = { s with
        status := { s.status with ksValid := s'.status.ksValid, authOk := s'.status.authOk }
        intStatus := s'.intStatus } ∧
      s'.status.ksValid ≠ s.status.ksValid ∧ exec .keyexp s = .next t ∧ t.status.busy = false ∧ s.status.busy = true :=
  ⟨running 0x1 [], { running 0x1 [] with
      status := { (running 0x1 []).status with ksValid := true, authOk := true }
      intStatus := { done := true, err := true, busyErr := true } },
    _, by decide, rfl, by decide, exec_keyexp_ok (running 0x1 []) 16 rfl, rfl, rfl⟩

/-- The first and the last offset of the register region and of arrays. -/
theorem witness_LegalAccessesReachOneLocation :
    locate Config.reference .word 0x000 = .reg .id ∧ locate Config.reference .word 0x034 = .reg .outLen ∧
    Config.wf Config.reference = true ∧ locate Config.reference .word 0x100 = .arr .key ∧
    locate Config.reference .byte 0x11F = .arr .key ∧ locate Config.reference .half 0x2EE = .arr .sched ∧
    locate Config.reference .word 0x3FC = .arr .nonceBuf ∧ locate Config.reference .byte 0x900F = .arr .outBuf ∧
    locate Config.reference .byte 0x9010 = .reserved := by decide

/-- The bus port's clauses: the first and the last address of the window, and the two beside it. -/
theorem witness_LegalAccesses_window :
    let s := placed .engine
    0x40000000 = s.cfg.base + (0x0000 : BitVec 16).toNat ∧ 0x4000FFFF = s.cfg.base + (0xFFFF : BitVec 16).toNat ∧
    0x3FFFFFFF < s.cfg.base ∧ s.cfg.base + 0x10000 ≤ 0x40010000 := by decide

theorem witness_ReadsReturnTheStoredValue :
    Config.wf State.reset.cfg = true ∧ locate State.reset.cfg .word (0x0034 : BitVec 16).toNat = .reg .outLen ∧
    locate State.reset.cfg .byte (0x0100 : BitVec 16).toNat = .arr .key ∧ (running 0x1 []).status.busy = true ∧
    State.reset.status.busy = false ∧ locate State.reset.cfg .half (0x011E : BitVec 16).toNat = .arr .key ∧
    locate State.reset.cfg .word (0x011C : BitVec 16).toNat = .arr .key := by decide

theorem witness_HalfReadIsTheLowHalf :
    (0x0104 : BitVec 16).toNat % 4 = 0 ∧ locate State.reset.cfg .word (0x0104 : BitVec 16).toNat = .arr .key ∧
    ∃ v, memRead { State.reset with mem := [(0x105, 0xAA)] } .word 0x0104 = .ok v :=
  ⟨by decide, by decide, 0x0000AA00, by decide⟩

theorem witness_ReadsHaveNoSideEffect : (host (.read .half 0x0102)).events = .read .half 0x0102 :: [] := rfl

/-- The POLL clauses: the wanted value, another value, and a reserved offset. -/
theorem witness_ReadsHaveNoSideEffect_poll :
    (host (.poll 0x0018 0x1 0x0)).events = .poll 0x0018 0x1 0x0 :: [] ∧
    memRead (host (.poll 0x0018 0x1 0x0)) .word 0x0018 = .ok 0x0 ∧ (0x0 : Word) &&& 0x1 = 0x0 ∧
    (running 0x1 [.poll 0x0018 0x1 0x0]).events = .poll 0x0018 0x1 0x0 :: [] ∧
    memRead (running 0x1 [.poll 0x0018 0x1 0x0]) .word 0x0018 = .ok 0x1 ∧ (0x1 : Word) &&& 0x1 ≠ 0x0 ∧
    (host (.poll 0x0038 0x1 0x0)).events = .poll 0x0038 0x1 0x0 :: [] ∧
    memRead (host (.poll 0x0038 0x1 0x0)) .word 0x0038 = .error (.busError 0x0038) := by decide

theorem witness_BusyReadsRevealNothing :
    let s := running 0x1 []
    let s' := { running 0x1 [] with mem := [(0x105, 0xAA)], outLen := 16 }
    s.status.busy = true ∧ s'.status = s.status ∧ s'.cfg = s.cfg ∧ s'.intStatus = s.intStatus ∧ s'.intEnable = s.intEnable := by
  decide

/-- A narrow access, a misaligned one and a reserved one below 0x100; a misaligned and a reserved one above. -/
theorem witness_IllegalAccessIsABusError :
    ((0x0010 : BitVec 16).toNat < 0x100 ∧ Size.half ≠ .word) ∧ ((0x0011 : BitVec 16).toNat < 0x100 ∧ (0x0011 : BitVec 16).toNat % 4 ≠ 0) ∧
    ((0x0038 : BitVec 16).toNat < 0x100 ∧ 0x38 ≤ (0x0038 : BitVec 16).toNat) ∧ (0x0101 : BitVec 16).toNat % Size.bytes .half ≠ 0 ∧
    (0x100 ≤ (0x0160 : BitVec 16).toNat ∧ ∀ x : Arr, ¬ inArr x (x.size State.reset.cfg) (0x0160 : BitVec 16).toNat) ∧
    (host (.read .half 0x0010)).events = .read .half 0x0010 :: [] ∧
    (host (.write .word 0x0160 0x0)).events = .write .word 0x0160 0x0 :: [] :=
  ⟨by decide, by decide, by decide, by decide,
    ⟨by decide, by intro x; cases x <;> simp [inArr, Arr.base, Arr.size, State.reset, Config.reference]⟩, rfl, rfl⟩

theorem witness_ReadOnlyWriteIsABusError :
    (host (.write .word 0x0034 0x0)).events = .write .word 0x0034 0x0 :: [] ∧
    locate State.reset.cfg .word (0x0034 : BitVec 16).toNat = .reg .outLen ∧
    (host (.write .byte 0x900F 0x0)).events = .write .byte 0x900F 0x0 :: [] ∧
    locate State.reset.cfg .byte (0x900F : BitVec 16).toNat = .arr .outBuf := by decide

theorem witness_HostWritesKeepTheResults :
    (host (.write .byte 0x0105 0xAA)).memWf = true ∧ (host (.write .byte 0x0105 0xAA)).cfg.wf = true ∧
    (host (.write .byte 0x0105 0xAA)).events = .write .byte 0x0105 0xAA :: [] ∧
    ∃ t, step (host (.write .byte 0x0105 0xAA)) = .next t :=
  ⟨rfl, by decide, rfl, (hostWrite_ends { host (.write .byte 0x0105 0xAA) with events := [] } .byte 0x0105 0xAA).imp fun _ h => h.1⟩

theorem witness_BusyWritesAreDropped :
    (running 0x1 [.write .word 0x001C 0x7]).events = .write .word 0x001C 0x7 :: [] ∧
    (running 0x1 [.write .word 0x001C 0x7]).status.busy = true ∧
    locate State.reset.cfg .word (0x001C : BitVec 16).toNat = .reg .intStatus ∧
    locate State.reset.cfg .word (0x0020 : BitVec 16).toNat = .reg .intEnable ∧
    locate State.reset.cfg .word (0x0030 : BitVec 16).toNat = .reg .tagInLen ∧
    locate State.reset.cfg .byte (0x4FFF : BitVec 16).toNat = .arr .inBuf := by decide

theorem witness_RegisterWritesStore :
    (host (.write .word 0x0010 0xFFFFFFFF)).events = .write .word 0x0010 0xFFFFFFFF :: [] ∧
    (host (.write .word 0x0010 0xFFFFFFFF)).status.busy = false ∧
    [(0x0010 : BitVec 16), 0x001C, 0x0020, 0x0024, 0x0028, 0x002C, 0x0030].map (fun a => locate State.reset.cfg .word a.toNat) =
      [.reg .ctrl, .reg .intStatus, .reg .intEnable, .reg .msgLen, .reg .aadLen, .reg .nonceLen, .reg .tagInLen] := by
  decide

/-- The last byte, half word and word of IN_BUF. -/
theorem witness_ArrayWriteIsReadBack :
    (host (.write .word 0x4FFC 0x12345678)).memWf = true ∧
    (host (.write .word 0x4FFC 0x12345678)).events = .write .word 0x4FFC 0x12345678 :: [] ∧
    (host (.write .word 0x4FFC 0x12345678)).status.busy = false ∧
    locate State.reset.cfg .word (0x4FFC : BitVec 16).toNat = .arr .inBuf ∧
    locate State.reset.cfg .half (0x4FFE : BitVec 16).toNat = .arr .inBuf ∧
    locate State.reset.cfg .byte (0x4FFF : BitVec 16).toNat = .arr .inBuf ∧ Arr.readOnly .inBuf = false := by decide

theorem witness_WritesInvalidate :
    (host (.write .word 0x0010 0x0)).events = .write .word 0x0010 0x0 :: [] ∧
    (host (.write .word 0x0010 0x0)).status.busy = false ∧
    [(0x0010 : BitVec 16), 0x0100, 0x0300, 0x002C, 0x1000, 0x0028, 0x0120, 0x0130, 0x0024, 0x0030, 0x4000, 0x001C, 0x0020].map
        (fun a => locate State.reset.cfg .word a.toNat) =
      [.reg .ctrl, .arr .key, .arr .nonceBuf, .reg .nonceLen, .arr .aadBuf, .reg .aadLen, .arr .iv, .arr .tag, .reg .msgLen,
        .reg .tagInLen, .arr .inBuf, .reg .intStatus, .reg .intEnable] := by decide

theorem witness_OnlyTheHostClearsInterruptBits :
    let s := { host (.write .word 0x001C 0x1) with intStatus := { done := true, err := true, busyErr := true } }
    s.intStatus.done = true ∧ registerOf .intStatus (step s) = some 0x6 := by decide

/-- ERR's and BUSYERR's clauses: one write clears both, through the bus port; a reset clears them too. -/
theorem witness_OnlyTheHostClears_err :
    let b : IntBits := { done := true, err := true, busyErr := true }
    after State.intStatus (step { placed (.busWrite .word 0x4000001C 0x6) with intStatus := b }) =
      some { done := true, err := false, busyErr := false } ∧
    after State.intStatus (step { host .reset with intStatus := b }) = some { done := false, err := false, busyErr := false } := by
  decide

theorem witness_GfMul128HasZeroAndIdentity : (hexBytes 16 0x66e94bd4ef8a2c3b884cfa59ca342b2e).length = 16 := by decide

theorem witness_ExpandKeyLengthAndPrefix :
    (zeros 16).length = 16 ∧ (zeros 24).length = 24 ∧ (zeros 32).length = 32 := by decide

theorem witness_RoundTransformationsInvert : (hexBytes 16 0x00112233445566778899aabbccddeeff).length = 16 := by decide

theorem witness_DecryptInvertsEncrypt :
    (32 = 16 ∨ 32 = 24 ∨ 32 = 32) ∧ (zeros 32).length = 32 ∧ (hexBytes 16 0x00112233445566778899aabbccddeeff).length = 16 := by
  decide

/-- A whole block of padding, one byte of it, and the rejected last bytes 0x00 and 0x11. -/
theorem witness_UnpadStripsExactlyValidPadding :
    let x : Bytes := List.replicate 16 0x10
    0 < x.length ∧ x.length % 16 = 0 ∧ x.getLastD 0 = 0x10 ∧
    (∀ j < 16, x.length - 16 ≤ j → x.getD j 0 = 0x10) ∧ (hexBytes 16 0x01).getLastD 0 = 0x01 ∧
    ¬(1 ≤ ((hexBytes 16 0x00).getLastD 0).toNat) ∧ ¬(((hexBytes 16 0x11).getLastD 0).toNat ≤ 16) := by decide

/-- A block function that is not the identity and its inverse. -/
theorem witness_CbcDecryptInvertsCbcEncrypt :
    (∀ b : Bytes, b.length = 16 → (b.reverse).length = 16 ∧ b.reverse.reverse = b) ∧ (zeros 16).length = 16 ∧
    (zeros 32).length % 16 = 0 :=
  ⟨fun b h => ⟨by simpa using h, List.reverse_reverse b⟩, by decide, by decide⟩

theorem witness_Inc32CountsTheLastFourBytes : (hexBytes 16 0x000102030405060708090a0bffffffff).length = 16 := by decide

theorem witness_GctrIsSelfInverse : ∀ b : Bytes, (aesEncrypt (zeros 176) 10 b).length = 16 := fun _ => rfl

/-- An empty message, encrypted from the reset state; `u` holds the ciphertext as its input. -/
theorem witness_CbcRoundTripOnTheMachine :
    ∃ s t u : State, s.memWf = true ∧ s.cfg.wf = true ∧ u.memWf = true ∧ u.cfg = s.cfg ∧ s.status.busy = true ∧
      exec .cbcEnc s = .next t ∧ t.status.busy = false ∧ t.status.errCode = .ok ∧ s.msgLen.toNat < s.cfg.maxMsg ∧
      u.ctrl.keyLen = s.ctrl.keyLen ∧ (∀ a, inArr .key 32 a → u.byteAt a = s.byteAt a) ∧
      u.iv = t.iv ∧ u.msgLen = t.outLen ∧ u.input t.outLen.toNat = t.output t.outLen.toNat := by
  have w0 : (running 0x4 []).memWf = true := rfl
  have hs := State.memWf_setSched _ w0 (expandKey ((running 0x4 []).key 16) 16)
  generalize hc : cbcEncrypt (aesEncrypt (expandKey ((running 0x4 []).key 16) 16) (rounds 16)) (running 0x4 []).iv
    (pad (running 0x4 []).message) = c
  have ht := State.memWf_setArr _ hs .outBuf c
  have hx := exec_cbcEnc_ok (running 0x4 []) 16 rfl (by decide) rfl
  rw [State.cbcEncWrites, hc] at hx
  generalize htt : (((running 0x4 []).setSched (expandKey ((running 0x4 []).key 16) 16)).setArr .outBuf c).complete 0x4 .ok
    (paddedLen (running 0x4 []).msgLen.toNat) = t at hx
  have hm : t.memWf = true := by rw [← htt]; exact ht
  have hl : (t.output t.outLen.toNat).length = t.outLen.toNat := State.arrSlice_length ..
  refine ⟨running 0x4 [], t, { t.setArr .inBuf (t.output t.outLen.toNat) with msgLen := t.outLen }, rfl, by decide,
    State.memWf_setArr t hm _ _, by rw [← htt]; rfl, rfl, hx, by rw [← htt]; rfl, by rw [← htt]; rfl, by decide,
    by rw [← htt]; rfl, ?_, ?_, rfl, State.arrSlice_setArr_same t hm .inBuf _ _ hl.symm⟩
  · intro a ha
    have h1 : a < 0x200 := by simp [inArr, Arr.base] at ha; omega
    refine (State.byteAt_setArr t hm .inBuf _ a).trans ?_
    rw [if_neg (by rw [show Arr.base .inBuf = 0x4000 from rfl]; omega), ← htt, State.byteAt_complete,
      State.byteAt_setArr _ hs, if_neg (by rw [show Arr.base .outBuf = 0x8000 from rfl]; omega), State.byteAt_setSched _ w0,
      if_neg (by omega)]
  · exact State.arrSlice_setArr_apart t hm .inBuf .iv _ _ _ (by left; decide)

/-- The second clause: a message of MAX_MSG bytes. -/
theorem witness_CbcRoundTrip_full :
    ∃ s t u : State, s.cfg.wf = true ∧ exec .cbcEnc s = .next t ∧ s.status.busy = true ∧ t.status.busy = false ∧
      t.status.errCode = .ok ∧ s.msgLen.toNat = s.cfg.maxMsg ∧
      u.cfg = s.cfg ∧ u.ctrl.keyLen = s.ctrl.keyLen ∧ u.msgLen = t.outLen := by
  have hx := exec_cbcEnc_ok { running 0x4 [] with msgLen := 4096 } 16 rfl (by decide) rfl
  generalize hw : State.cbcEncWrites { running 0x4 [] with msgLen := 4096 } (rounds 16) _ _ = w at hx
  exact ⟨{ running 0x4 [] with msgLen := 4096 }, _,
    { running 0x4 [] with msgLen := BitVec.ofNat 16 (paddedLen 4096) }, by decide, hx, rfl, rfl, rfl, by decide, rfl, rfl, rfl⟩

/-- Three of §2.4's rejected blocks: p = 0, p = 17, and the mismatch with p = 2; the first is decrypted here. -/
theorem witness_BadPaddingIsRejected :
    keyBytes (cbcCase 0).ctrl.keyLen = some 16 ∧ (cbcCase 0).msgLen.toNat = 16 ∧
    (cbcDecrypt (aesDecrypt (expandKey (hexBytes 16 0x2b7e151628aed2a6abf7158809cf4f3c) 16) 10)
      (hexBytes 16 0x000102030405060708090a0b0c0d0e0f) (hexBytes 16 0xeb593b41c96ffe158076a92d64c0c365)).getLastD 0 = 0x00 ∧
    0x10 < ((hexBytes 16 0x11).getLastD 0).toNat ∧ (hexBytes 16 0x0302).getLastD 0 = 0x02 ∧ (hexBytes 16 0x0302).getD 14 0 ≠ 0x02 :=
  ⟨rfl, cbcCase_len 0, by rw [cbcCase_block]; decide, by decide, by decide, by decide⟩

/-- A state that meets the invariant meets it with a command running. -/
theorem inv_running (s : State) (h : Inv s) (hw : s.rngWait = false) (op : BitVec 4) (h0 : op ≠ 0x0) :
    Inv { s with pendingOp := op, status := { s.status with busy := true } } := by
  obtain ⟨h1, h2, h3, h4, -, -, h7, h8⟩ := h
  exact ⟨h1, h2, h3, h4, fun _ => h0, fun h => absurd (hw.symm.trans h) Bool.false_ne_true, h7, h8⟩

theorem inv_tagInLen (s : State) (h : Inv s) (k : BitVec 5) : Inv { s with tagInLen := k } := by
  obtain ⟨h1, h2, h3, h4, h5, h6, h7, h8⟩ := h
  exact ⟨h1, h2, h3, h4, h5, h6, h7, h8⟩

/-- From a running GCM_ENC of `n` bytes in a context, all the hypotheses of the round trip. -/
theorem gcm_round_trip (s : State) (hi : Inv s) (hb : s.status.busy = true) (hc : s.status.ctxValid = true) (n : Nat)
    (hl : s.msgLen.toNat = n) (hm : n ≤ s.cfg.maxMsg) :
    ∃ t u : State, exec .gcmEnc s = .next t ∧ t.status.errCode = .ok ∧ t.status.lastOp = 0x7 ∧ s.status.busy = true ∧
      u.memWf = true ∧
      u = { t with mem := u.mem, intStatus := u.intStatus, intEnable := u.intEnable, events := u.events,
                   response := u.response, rngPort := u.rngPort, pendingOp := u.pendingOp, status := u.status } ∧
      u.status.ctxValid = true ∧ u.sched = t.sched ∧ u.hsub = t.hsub ∧ u.j0 = t.j0 ∧ u.aad = t.aad ∧ u.tag = t.tag ∧
      u.input s.msgLen.toNat = t.output s.msgLen.toNat := by
  obtain ⟨-, -, -, -, -, ha, nk, hk, -⟩ := hi.ctx hc
  have hcfg := hi.cfgOk
  simp [Config.wf] at hcfg
  have hx := exec_gcmEnc_ok s nk hk hc (by rw [hl]; exact hm)
  generalize gctr (aesEncrypt s.sched (rounds nk)) (inc32 s.j0) s.message = c at hx
  generalize s.computeTag (aesEncrypt s.sched (rounds nk)) c = g at hx
  have wt : ((s.gcmEncWrites c g).complete 0x7 .ok s.msgLen.toNat).memWf = true :=
    State.memWf_setArr _ (State.memWf_setArr s hi.memOk .outBuf c) .tag _
  have hcx : ((s.gcmEncWrites c g).complete 0x7 .ok s.msgLen.toNat).status.ctxValid = true := hc
  have haad : ((s.gcmEncWrites c g).complete 0x7 .ok s.msgLen.toNat).aadLen = s.aadLen := rfl
  generalize htt : (s.gcmEncWrites c g).complete 0x7 .ok s.msgLen.toNat = t at hx wt hcx haad
  have ho : (t.output n).length = n := State.arrSlice_length ..
  refine ⟨t, t.setArr .inBuf (t.output n), hx, by rw [← htt]; rfl, by rw [← htt]; rfl, hb, State.memWf_setArr t wt _ _, rfl, hcx,
    ?_, ?_, ?_, ?_, ?_, ?_⟩
  · exact State.arrSlice_setArr_apart t wt .inBuf .sched _ _ _ (by left; decide)
  · exact State.arrSlice_setArr_apart t wt .inBuf .hsub _ _ _ (by left; decide)
  · exact State.arrSlice_setArr_apart t wt .inBuf .j0 _ _ _ (by left; decide)
  · refine State.arrSlice_setArr_apart t wt .inBuf .aadBuf _ _ _ (.inl ?_)
    rw [State.setArr_aadLen, haad, show Arr.base .aadBuf = 0x1000 from rfl, show Arr.base .inBuf = 0x4000 from rfl]
    omega
  · exact State.arrSlice_setArr_apart t wt .inBuf .tag _ _ _ (by left; decide)
  · rw [hl]; exact State.arrSlice_setArr_same t wt .inBuf _ n ho.symm

/-- The §8 message in its context, encrypted; `u` holds the ciphertext as its input. -/
theorem witness_GcmRoundTripOnTheMachine :
    ∃ s t u : State, Inv s ∧ exec .gcmEnc s = .next t ∧ t.status.errCode = .ok ∧ t.status.lastOp = 0x7 ∧
      s.status.busy = true ∧ u.memWf = true ∧
      u = { t with mem := u.mem, intStatus := u.intStatus, intEnable := u.intEnable, events := u.events,
                   response := u.response, rngPort := u.rngPort, pendingOp := u.pendingOp, status := u.status } ∧
      u.status.ctxValid = true ∧ u.sched = t.sched ∧ u.hsub = t.hsub ∧ u.j0 = t.j0 ∧ u.aad = t.aad ∧ u.tag = t.tag ∧
      u.input s.msgLen.toNat = t.output s.msgLen.toNat := by
  have hi := inv_running _ (context8_inv (zeros 16) (zeros 16) (by rw [zeros_length]; omega) (zeros_length 16)) rfl 0x7 (by decide)
  have hl : (context8 (zeros 16) (zeros 16)).msgLen.toNat = 16 := by simp [context8, gcmContext, gcmInput]
  have hc : (context8 (zeros 16) (zeros 16)).status.ctxValid = true := rfl
  have hm : (context8 (zeros 16) (zeros 16)).cfg.maxMsg = 4096 := rfl
  generalize context8 (zeros 16) (zeros 16) = s at hi hl hc hm
  obtain ⟨t, u, h⟩ := gcm_round_trip _ hi rfl hc 16 hl (by rw [hm]; omega)
  exact ⟨_, t, u, hi, h⟩

/-- Both comparison modes at their boundaries: k = 0, and k = 17 above TAGLEN = 16. -/
theorem witness_SuppliedTagLengthDecides :
    Inv (context8 [] (zeros 16)) ∧ (context8 [] (zeros 16)).status.ctxValid = true ∧
    (context8 [] (zeros 16)).msgLen.toNat ≤ (context8 [] (zeros 16)).cfg.maxMsg ∧
    (context8 [] (zeros 16)).ctrl.tagCmp = false ∧
    Inv { context8 [] (zeros 16) with tagInLen := 0 } ∧ Inv { context8 [] (zeros 16) with tagInLen := 17 } ∧
    (context8 [] (zeros 16)).ctrl.tagLen.toNat < (17 : BitVec 5).toNat := by
  have h := context8_inv [] (zeros 16) (by decide) (zeros_length 16)
  exact ⟨h, rfl, show 0 ≤ 4096 by omega, rfl, inv_tagInLen _ h 0, inv_tagInLen _ h 17,
    show 16 < 17 by omega⟩

end Sys2Proof.Tests
end

namespace Sys2Proof.Machine

/-! PROOFS. Every step keeps the memory in canonical form. -/

@[simp] theorem State.memWf_writeReg (s : State) (v : Word) (r : Reg) : (s.writeReg v r).memWf = s.memWf := by
  cases r <;> rfl

@[simp] theorem State.memWf_invalidateArr (s : State) (x : Arr) : (s.invalidateArr x).memWf = s.memWf := by
  cases x <;> rfl

/-- A host write to an array keeps the memory in canonical form. -/
theorem State.memWf_writeArr (s : State) (hs : s.memWf = true) (n : Size) (a : Nat) (v : Word) (x : Arr) :
    (s.writeArr n a v x).memWf = true := by
  rw [State.writeArr, State.memWf_invalidateArr]
  exact State.memWf_storeBytes s hs a _

/-- Every host write keeps the memory in canonical form: only an accepted array write touches it. -/
theorem WriteEnds.memWf {s t : State} {n : Size} {a : BitVec 16} {v : Word} (h : WriteEnds s n a v t)
    (hs : s.memWf = true) : t.memWf = true := by
  cases h with
  | error | droppedReg | droppedArr | nop | issue => exact hs
  | reg r => exact (State.memWf_writeReg s v r).trans hs
  | arr x => exact State.memWf_writeArr s hs n a.toNat v x

/-- The result writes of a command keep the memory in canonical form. -/
theorem Success.memWf {nk : Nat} {s u : State} {i : Instr} {n : Nat} (h : Success nk s i u n)
    (hs : s.memWf = true) : u.memWf = true := by
  have hsched : ∀ w, (s.setSched w).memWf = true := State.memWf_setSched s hs
  have harr : ∀ w x bs, ((s.setSched w).setArr x bs).memWf = true := fun w =>
    State.memWf_setArr _ (hsched w)
  cases h with
  | keyexp => exact hsched _
  | encBlock | decBlock | cbcEnc | cbcDec => exact harr _ _ _
  | cbcEncDraw draw => rw [State.memWf_takeDraw]; exact State.memWf_setArr _ (harr _ _ _) _ _
  | gcmInit => rw [State.memWf_setContext]; exact State.memWf_setArr _ (harr _ _ _) _ _
  | gcmEnc => rw [State.memWf_gcmEncWrites]; exact State.memWf_setArr _ (State.memWf_setArr s hs _ _) _ _
  | gcmDec => exact State.memWf_setArr s hs _ _

/-- Every command keeps the memory in canonical form. -/
theorem Ends.memWf {s t : State} {i : Instr} (h : Ends s i t) (hs : s.memWf = true) : t.memWf = true := by
  cases h with
  | nop | failed | failedInit | waits => exact hs
  | ok _ _ _ _ _ hw => exact hw.memWf hs

/-- Settles O9, by the ways a step can end: a reset empties the memory, and only the result writes of a command and an
accepted host write touch it otherwise. -/
theorem stepKeepsTheMemoryForm : Obligations.StepKeepsTheMemoryForm := by
  intro s t hs h
  cases step_ends s t h with
  | listen | rng => exact hs
  | write _ _ _ _ _ _ _ _ hw => exact hw.memWf hs
  | complete _ _ _ _ _ _ hx => exact (exec_ends _ _ _ hx).memWf hs
  | reset => rfl

end Sys2Proof.Machine

namespace Sys2Proof.Machine

/-! PROOFS. What commands keep of the registers and the RNG handshake, and that no step changes the parameters. -/

theorem KeptRegs.refl (s : State) : KeptRegs s s := by constructor <;> rfl

/-- The completion step writes no register that a command keeps (R70). -/
theorem KeptRegs.complete {s u : State} (h : KeptRegs s u) (op : BitVec 4) (code : ErrCode) (n : Nat) :
    KeptRegs s (u.complete op code n) := by
  obtain ⟨cfg, ctrl, intEnable, busyErr, msgLen, aadLen, nonceLen, pendingOp, resets, events, response⟩ := h
  exact ⟨cfg, ctrl, intEnable, busyErr, msgLen, aadLen, nonceLen, pendingOp, resets, events, response⟩

/-- The result writes of a command reach arrays and flags only. -/
theorem Success.keptRegs {nk : Nat} {s u : State} {i : Instr} {n : Nat} (h : Success nk s i u n) : KeptRegs s u := by
  cases h <;> constructor <;> rfl

/-- No command writes a configuration register, an input length, INT_ENABLE, BUSYERR or PENDING_OP. -/
theorem Ends.keptRegs {s t : State} {i : Instr} (h : Ends s i t) : KeptRegs s t := by
  cases h with
  | nop => exact .refl s
  | failed => exact (KeptRegs.refl s).complete _ _ _
  | failedInit => constructor <;> rfl
  | waits => constructor <;> rfl
  | ok _ _ _ _ _ hw => exact hw.keptRegs.complete _ _ _

/-- Only a CBC_ENC with IVGEN = 1 touches the RNG handshake (R116). -/
theorem Ends.keptRng {s t : State} {i : Instr} (h : Ends s i t) (hi : i ≠ .cbcEnc ∨ s.ctrl.ivGen = false) :
    KeptRng s t := by
  cases h with
  | nop | failed | failedInit => exact ⟨rfl, rfl⟩
  | waits hg => simp [hg] at hi
  | ok _ _ _ _ _ hw =>
    cases hw with
    | cbcEncDraw _ _ hg => simp [hg] at hi
    | keyexp | encBlock | decBlock | cbcEnc | cbcDec | gcmInit | gcmEnc | gcmDec => exact ⟨rfl, rfl⟩

/-- Only GCM_ENC writes TAG_IN_LEN (R28, R127). -/
theorem Ends.tagInLen {s t : State} {i : Instr} (h : Ends s i t) (hi : i ≠ .gcmEnc) : t.tagInLen = s.tagInLen := by
  cases h with
  | nop | failed | failedInit | waits => rfl
  | ok _ _ _ _ _ hw =>
    cases hw with
    | gcmEnc => exact absurd rfl hi
    | keyexp | encBlock | decBlock | cbcEnc | cbcEncDraw | cbcDec | gcmInit | gcmDec => rfl

/-! ### The parameters -/

@[simp] theorem State.writeArr_cfg (s : State) (n : Size) (a : Nat) (v : Word) (x : Arr) :
    (s.writeArr n a v x).cfg = s.cfg := by
  simp [State.writeArr]

/-- No host write changes the parameters. -/
theorem WriteEnds.cfg {s t : State} {n : Size} {a : BitVec 16} {v : Word} (h : WriteEnds s n a v t) :
    t.cfg = s.cfg := by
  cases h with
  | error | droppedReg | droppedArr | nop | issue => rfl
  | reg r => exact State.writeReg_cfg s v r
  | arr x => exact State.writeArr_cfg s n a.toNat v x

/-- No step changes the parameters (R21). -/
theorem StepEnds.cfg {s t : State} (h : StepEnds s t) : t.cfg = s.cfg := by
  cases h with
  | listen | rng | reset => rfl
  | write _ _ _ _ _ _ _ _ hw => exact hw.cfg
  | complete _ _ _ _ _ _ hx => exact (exec_ends _ _ _ hx).keptRegs.cfg

/-- Settles O11: PARAM0 and PARAM1 are functions of the configuration, which no step changes. -/
theorem parametersAreConstant : Obligations.ParametersAreConstant := by
  intro s t h
  have hcfg := (step_ends s t h).cfg
  simp [regValue, hcfg]

end Sys2Proof.Machine

namespace Sys2Proof.Machine

/-! PROOFS. The frame of all commands: every byte outside a command's results is kept. -/

/-! ### Lengths of the results that commands write -/

theorem xorFirst_length (t : Bytes) (c : Byte) : (xorFirst t c).length = t.length := by
  cases t <;> rfl

/-- The word of a schedule step is four bytes long once four stand before it (R92). -/
theorem expandWord_length (nk pos rc : Nat) (w : Bytes) (hw : w.length = pos) (hp : 4 ≤ pos) :
    (expandWord nk pos rc w).length = 4 := by
  have ht : (slice w (pos - 4) pos).length = 4 := by rw [slice_length]; omega
  unfold expandWord
  dsimp only
  split_ifs
  · rw [xorFirst_length, subWord, List.length_map, rotWord, List.length_append, List.length_drop, List.length_take, ht]
    rfl
  · rw [subWord, List.length_map, ht]
  · exact ht

/-- Each round of the schedule's loop adds four bytes. -/
theorem expandLoop_length (nk n pos rc : Nat) (w : Bytes) (hw : w.length = pos) (hk : 4 ≤ nk) (hp : nk ≤ pos) :
    (expandLoop nk n pos rc w).length = pos + 4 * n := by
  induction n generalizing pos rc w with
  | zero => simpa [expandLoop] using hw
  | succ n ih =>
    have hx : (expandWord nk pos rc w).length = 4 := expandWord_length nk pos rc w hw (by omega)
    rw [expandLoop, ih _ _ _ (by rw [List.length_append, xorBytes_length, slice_length, hx]; omega) (by omega)]
    omega

/-- `ExpandKey` gives SchedLen(Nk) bytes (R93). -/
theorem expandKey_length (key : Bytes) (nk : Nat) (hl : key.length = nk) (hk : nk = 16 ∨ nk = 24 ∨ nk = 32) :
    (expandKey key nk).length = schedLen nk := by
  rw [expandKey, expandLoop_length _ _ _ _ _ hl (by omega) le_rfl]
  rcases hk with rfl | rfl | rfl <;> rfl

@[simp] theorem State.key_length (s : State) (nk : Nat) : (s.key nk).length = nk := State.arrSlice_length s _ _ _

/-- The image of the current key's schedule fills SCHED exactly (R95). -/
theorem State.schedImage_expandKey_length (s : State) (nk : Nat) (h : keyBytes s.ctrl.keyLen = some nk) :
    (schedImage (expandKey (s.key nk) nk)).length = 240 := by
  have hk := keyBytes_cases _ nk h
  rw [schedImage, List.length_append, zeros_length, expandKey_length _ _ (s.key_length nk) hk]
  rcases hk with rfl | rfl | rfl <;> rfl

/-- `GCTR` gives no more bytes than it is given (R122). -/
theorem gctrBlocks_length_le (e : Bytes → Bytes) (cb : Bytes) (cs : List Bytes) :
    (gctrBlocks e cb cs).length ≤ cs.flatten.length := by
  induction cs generalizing cb with
  | nil => simp [gctrBlocks]
  | cons c cs ih =>
    have := ih (inc32 cb)
    simp only [gctrBlocks, List.length_append, xorBytes_length, List.flatten_cons]
    omega

theorem blocksN_flatten_length_le (k : Nat) (x : Bytes) : (blocksN k x).flatten.length ≤ x.length := by
  induction k generalizing x with
  | zero => simp [blocksN]
  | succ k ih =>
    have := ih (x.drop 16)
    simp only [blocksN, List.flatten_cons, List.length_append, List.length_take, List.length_drop] at this ⊢
    omega

theorem gctr_length_le (e : Bytes → Bytes) (icb x : Bytes) : (gctr e icb x).length ≤ x.length :=
  (gctrBlocks_length_le e icb (blocks x)).trans (blocksN_flatten_length_le _ x)

/-- A computed tag has at most `t` and at most 16 bytes (R124). -/
theorem computeTag_length_le (e : Bytes → Bytes) (h j0 a c : Bytes) (t : Nat) :
    (computeTag e h j0 a c t).length ≤ min t 16 := by
  have := gctr_length_le e j0 (ghash h (tagInput a c))
  rw [ghash_length] at this
  rw [computeTag, List.length_take]
  omega

/-- A tag with its zero fill fits the array TAG (R127). -/
theorem State.paddedTag_length_le (s : State) (e : Bytes → Bytes) (c : Bytes) :
    (s.computeTag e c ++ zeros (16 - s.ctrl.tagLen.toNat)).length ≤ 16 := by
  have := computeTag_length_le e s.hsub s.j0 s.aad c s.ctrl.tagLen.toNat
  rw [List.length_append, zeros_length, State.computeTag]
  omega

/-- `DeriveJ0` gives a block (R123). -/
theorem deriveJ0_length (h n : Bytes) : (deriveJ0 h n).length = 16 := by
  unfold deriveJ0
  split
  · next hn => rw [List.length_append, hn]; rfl
  · exact ghash_length _ _

/-! ### Bytes outside what is written -/

theorem KeptOutside.mono {s t : State} {p q : Nat → Prop} (h : KeptOutside s t p) (hpq : ∀ a, p a → q a) :
    KeptOutside s t q := fun a ha => h a fun hp => ha (hpq a hp)

/-- Two writes in turn keep what lies outside both. -/
theorem KeptOutside.trans {s t u : State} {p q : Nat → Prop} (h : KeptOutside s t p) (h' : KeptOutside t u q) :
    KeptOutside s u fun a => p a ∨ q a := fun a ha =>
  (h' a fun hq => ha (.inr hq)).trans (h a fun hp => ha (.inl hp))

/-- Writing at most `n` bytes at an array's base keeps every byte but the array's first `n`. -/
theorem keptOutside_setArr (s : State) (hs : s.memWf = true) (x : Arr) (bs : Bytes) (n : Nat) (hn : bs.length ≤ n) :
    KeptOutside s (s.setArr x bs) (inArr x n) := fun a ha => by
  unfold inArr at ha
  rw [State.byteAt_setArr s hs, if_neg (by omega)]

theorem keptOutside_setSched (s : State) (hs : s.memWf = true) (nk : Nat) (h : keyBytes s.ctrl.keyLen = some nk) :
    KeptOutside s (s.setSched (expandKey (s.key nk) nk)) (inArr .sched 240) :=
  keptOutside_setArr s hs .sched _ 240 (s.schedImage_expandKey_length nk h).le

/-- Writing OUT_BUF keeps every byte below it. -/
theorem keptOutside_setOut (s : State) (hs : s.memWf = true) (bs : Bytes) :
    KeptOutside s (s.setArr .outBuf bs) (Arr.base .outBuf ≤ ·) :=
  (keptOutside_setArr s hs .outBuf bs _ le_rfl).mono fun _ ha => ha.1

/-- Taking the draw writes IV (R116). -/
theorem keptOutside_takeDraw (s : State) (hs : s.memWf = true) (draw : Vector Byte 16) :
    KeptOutside s (s.takeDraw draw) (inArr .iv 16) :=
  keptOutside_setArr s hs .iv draw.toList 16 draw.length_toList.le

/-- The context of GCM_INIT is written to HSUB and J0 (R126). -/
theorem keptOutside_setContext (s : State) (hs : s.memWf = true) (h j : Bytes) (hh : h.length = 16) (hj : j.length = 16) :
    KeptOutside s (s.setContext h j) fun a => inArr .hsub 16 a ∨ inArr .j0 16 a :=
  (keptOutside_setArr s hs .hsub h 16 hh.le).trans
    (keptOutside_setArr _ (State.memWf_setArr s hs .hsub h) .j0 j 16 hj.le)

/-- GCM_ENC writes OUT_BUF and, with the tag it computes, TAG (R127). -/
theorem keptOutside_gcmEncWrites (s : State) (hs : s.memWf = true) (e : Bytes → Bytes) (c : Bytes) :
    KeptOutside s (s.gcmEncWrites c (s.computeTag e c)) fun a => Arr.base .outBuf ≤ a ∨ inArr .tag 16 a :=
  (keptOutside_setOut s hs c).trans
    (keptOutside_setArr _ (State.memWf_setArr s hs .outBuf c) .tag _ 16 (s.paddedTag_length_le e c))

/-- A sequence of bytes kept by a write is read as before. -/
theorem KeptOutside.arrSlice {s t : State} {p : Nat → Prop} (h : KeptOutside s t p) (x : Arr) (n : Nat)
    (hp : ∀ a, inArr x n a → ¬p a) : t.arrSlice x 0 n = s.arrSlice x 0 n :=
  State.arrSlice_congr s t x 0 n fun a h1 h2 => h a (hp a ⟨h1, h2⟩)

/-- The offsets that command `i` may write from state `s`: SCHED, all from OUT_BUF on, and the arrays that are the results of
one command alone (R32 to R36, R40). -/
def resultOffset (s : State) (i : Instr) (a : Nat) : Prop :=
  inArr .sched 240 a ∨ Arr.base .outBuf ≤ a ∨
  ((i = .cbcEnc ∧ s.ctrl.ivGen = true) ∧ inArr .iv 16 a) ∨
  (i = .gcmEnc ∧ inArr .tag 16 a) ∨
  (i = .gcmInit ∧ (inArr .hsub 16 a ∨ inArr .j0 16 a))

/-- The bytes that the result writes of a command change lie within its results. -/
theorem Success.keptOutside {nk : Nat} {s u : State} {i : Instr} {n : Nat} (h : Success nk s i u n)
    (hk : keyBytes s.ctrl.keyLen = some nk) (hs : s.memWf = true) : KeptOutside s u (resultOffset s i) := by
  have hsched := keptOutside_setSched s hs nk hk
  have hwf := State.memWf_setSched s hs (expandKey (s.key nk) nk)
  have hout := fun bs => hsched.trans (keptOutside_setOut _ hwf bs)
  cases h with
  | keyexp => exact hsched.mono fun a ha => .inl ha
  | encBlock | decBlock | cbcEnc | cbcDec => exact (hout _).mono fun a ha => ha.imp_right .inl
  | cbcEncDraw draw hl hg =>
    refine ((hout _).trans (keptOutside_takeDraw _ (State.memWf_setArr _ hwf _ _) draw)).mono fun a ha => ?_
    rcases ha with (ha | ha) | ha
    · exact .inl ha
    · exact .inr (.inl ha)
    · exact .inr (.inr (.inl ⟨⟨rfl, hg⟩, ha⟩))
  | gcmInit =>
    refine (hsched.trans (keptOutside_setContext _ hwf _ _ (aesEncrypt_length ..) (deriveJ0_length ..))).mono fun a ha => ?_
    rcases ha with ha | ha
    · exact .inl ha
    · exact .inr (.inr (.inr (.inr ⟨rfl, ha⟩)))
  | gcmEnc =>
    refine (keptOutside_gcmEncWrites s hs _ _).mono fun a ha => ?_
    rcases ha with ha | ha
    · exact .inr (.inl ha)
    · exact .inr (.inr (.inr (.inl ⟨rfl, ha⟩)))
  | gcmDec => exact (keptOutside_setOut s hs _).mono fun a ha => .inr (.inl ha)

/-- The bytes that a command changes lie within its results. -/
theorem Ends.keptOutside {s t : State} {i : Instr} (h : Ends s i t) (hs : s.memWf = true) :
    KeptOutside s t (resultOffset s i) := by
  cases h with
  | nop | failed | failedInit | waits => exact fun _ _ => rfl
  | ok _ _ _ _ hk hw => exact hw.keptOutside hk hs

/-- The results of the commands lie apart from what the host gives them as inputs. -/
theorem not_resultOffset_of_input (s : State) (hc : s.cfg.wf = true) (i : Instr) (x : Arr)
    (hx : x ∈ [Arr.key, Arr.nonceBuf, Arr.aadBuf, Arr.inBuf]) (a : Nat) (ha : inArr x (x.size s.cfg) a) :
    ¬resultOffset s i a := by
  simp only [Config.wf, Bool.and_eq_true, decide_eq_true_eq] at hc
  simp only [List.mem_cons, List.not_mem_nil, or_false] at hx
  rcases hx with rfl | rfl | rfl | rfl <;> simp only [inArr, resultOffset, Arr.base, Arr.size] at ha ⊢ <;> omega

theorem not_resultOffset_iv (s : State) (i : Instr) (hi : i ≠ .cbcEnc ∨ s.ctrl.ivGen = false) (a : Nat)
    (ha : inArr .iv 16 a) : ¬resultOffset s i a := by
  have hd : ¬(i = .cbcEnc ∧ s.ctrl.ivGen = true) := by rintro ⟨rfl, hg⟩; simp [hg] at hi
  simp only [inArr, resultOffset, Arr.base, hd, false_and, false_or] at ha ⊢
  omega

theorem not_resultOffset_tag (s : State) (i : Instr) (hi : i ≠ .gcmEnc) (a : Nat) (ha : inArr .tag 16 a) :
    ¬resultOffset s i a := by
  simp only [inArr, resultOffset, Arr.base, hi, false_and, false_or] at ha ⊢
  omega

theorem not_resultOffset_context (s : State) (i : Instr) (hi : i ≠ .gcmInit) (a : Nat)
    (ha : inArr .hsub 16 a ∨ inArr .j0 16 a) : ¬resultOffset s i a := by
  simp only [inArr, resultOffset, Arr.base, hi, false_and, or_false] at ha ⊢
  omega

/-- Settles O29: what a command changes lies within its results (`Ends.keptOutside`), and each array outside them reads as
before. -/
theorem commandsWriteOnlyTheirResults : Obligations.CommandsWriteOnlyTheirResults := by
  intro s t i hs hc h
  have he := exec_ends i s t h
  have hkept := he.keptOutside hs
  refine ⟨he.keptRegs, fun x hx a ha => hkept a (not_resultOffset_of_input s hc i x hx a ha), fun hi => ⟨?_, he.keptRng hi⟩,
    fun hi => ⟨?_, he.tagInLen hi⟩, fun hi => ⟨?_, ?_⟩⟩
  · exact hkept.arrSlice .iv 16 (not_resultOffset_iv s i hi)
  · exact hkept.arrSlice .tag 16 (not_resultOffset_tag s i hi)
  · exact hkept.arrSlice .hsub 16 fun a ha => not_resultOffset_context s i hi a (.inl ha)
  · exact hkept.arrSlice .j0 16 fun a ha => not_resultOffset_context s i hi a (.inr ha)

end Sys2Proof.Machine

namespace Sys2Proof.Machine

/-! PROOFS. The flags that no command reads: KS_VALID, AUTH_OK and INT_STATUS do not influence a completion. -/

/-- The state with other values in the flags that no command reads (R42): KS_VALID, AUTH_OK and INT_STATUS. -/
def State.withFlags (s : State) (ksValid authOk : Bool) (b : IntBits) : State :=
  { s with status := { s.status with ksValid := ksValid, authOk := authOk }, intStatus := b }

/-- Two outcomes of a command's Exec that differ in the unread flags alone. -/
inductive SameRun : ExecResult → ExecResult → Prop where
  | ok (u : State) (n : Nat) (ksValid authOk : Bool) (b : IntBits) :
      SameRun (.ok u n) (.ok (u.withFlags ksValid authOk b) n)
  | fail (code : ErrCode) : SameRun (.fail code) (.fail code)
  | waitRng : SameRun .waitRng .waitRng
  | refuse (r : Refusal) : SameRun (.refuse r) (.refuse r)

theorem SameRun.ite {c : Prop} [Decidable c] {r₁ r₂ r₁' r₂' : ExecResult} (h₁ : c → SameRun r₁ r₁')
    (h₂ : ¬c → SameRun r₂ r₂') : SameRun (if c then r₁ else r₂) (if c then r₁' else r₂') := by
  split
  · exact h₁ ‹c›
  · exact h₂ ‹¬c›

section
variable (s : State) (k a : Bool) (b : IntBits)

theorem withKey_withFlags (f f' : Nat → Bytes → ExecResult) (h : ∀ nr w, SameRun (f nr w) (f' nr w)) :
    SameRun (withKey s f) (withKey (s.withFlags k a b) f') := by
  rcases keyLen_cases s.ctrl.keyLen with hk | ⟨nk, hk⟩
  · rw [withKey_none s f hk, withKey_none (s.withFlags k a b) f' hk]
    exact .fail _
  · rw [withKey_some s f nk hk, withKey_some (s.withFlags k a b) f' nk hk]
    exact h _ _

theorem withContext_withFlags (f f' : (Bytes → Bytes) → ExecResult) (h : ∀ e, SameRun (f e) (f' e)) :
    SameRun (withContext s f) (withContext (s.withFlags k a b) f') := by
  refine .ite (fun _ => .fail _) fun _ => .ite (fun _ => .fail _) fun _ => ?_
  change SameRun (match keyBytes s.ctrl.keyLen with | some nk => _ | none => _)
    (match keyBytes s.ctrl.keyLen with | some nk => _ | none => _)
  cases keyBytes s.ctrl.keyLen with
  | some nk => exact h _
  | none => exact .refuse _

theorem runKeyexp_withFlags : SameRun (runKeyexp s) (runKeyexp (s.withFlags k a b)) :=
  withKey_withFlags s k a b _ _ fun _ _ => .ok _ _ true a b

/-- The Exec of ENC_BLOCK and DEC_BLOCK, with the block function `c` (R110, R111). -/
theorem blockCommand_withFlags (c : Bytes → Nat → Bytes → Bytes) :
    SameRun (withKey s fun nr w => .ok ((s.setSched w).setArr .outBuf (c w nr (s.input 16))) 16)
      (withKey (s.withFlags k a b) fun nr w =>
        .ok (((s.withFlags k a b).setSched w).setArr .outBuf (c w nr ((s.withFlags k a b).input 16))) 16) :=
  withKey_withFlags s k a b _ _ fun _ _ => .ok _ _ true a b

theorem runEncBlock_withFlags : SameRun (runEncBlock s) (runEncBlock (s.withFlags k a b)) :=
  blockCommand_withFlags s k a b aesEncrypt

theorem runDecBlock_withFlags : SameRun (runDecBlock s) (runDecBlock (s.withFlags k a b)) :=
  blockCommand_withFlags s k a b aesDecrypt

theorem runCbcEnc_withFlags : SameRun (runCbcEnc s) (runCbcEnc (s.withFlags k a b)) := by
  refine withKey_withFlags s k a b _ _ fun nr w => .ite (fun _ => .fail _) fun _ => .ite (fun _ => ?_) fun _ =>
    .ok _ _ true a b
  change SameRun (match s.rngPort with | some draw => _ | none => _) (match s.rngPort with | some draw => _ | none => _)
  cases s.rngPort with
  | some draw => exact .ok _ _ true a b
  | none => exact .waitRng

theorem runCbcDec_withFlags : SameRun (runCbcDec s) (runCbcDec (s.withFlags k a b)) := by
  refine withKey_withFlags s k a b _ _ fun nr w => .ite (fun _ => .fail _) fun _ => ?_
  change SameRun (match unpad (cbcDecrypt (aesDecrypt w nr) s.iv s.message) with | some m => _ | none => _)
    (match unpad (cbcDecrypt (aesDecrypt w nr) s.iv s.message) with | some m => _ | none => _)
  cases unpad (cbcDecrypt (aesDecrypt w nr) s.iv s.message) with
  | some m => exact .ok _ _ true a b
  | none => exact .fail _

theorem runGcmInit_withFlags : SameRun (runGcmInit s) (runGcmInit (s.withFlags k a b)) :=
  withKey_withFlags s k a b _ _ fun _ _ => .ite (fun _ => .fail _) fun _ => .ite (fun _ => .fail _) fun _ =>
    .ite (fun _ => .fail _) fun _ => .ok _ _ true a b

theorem runGcmEnc_withFlags : SameRun (runGcmEnc s) (runGcmEnc (s.withFlags k a b)) :=
  withContext_withFlags s k a b _ _ fun _ => .ok _ _ k a b

theorem runGcmDec_withFlags : SameRun (runGcmDec s) (runGcmDec (s.withFlags k a b)) :=
  withContext_withFlags s k a b _ _ fun _ => .ite (fun _ => .ok _ _ k a b) fun _ => .fail _

end

/-- The results of a command that R42's flags must not influence. -/
structure SameResults (t t' : State) : Prop where
  mem : t'.mem = t.mem
  outLen : t'.outLen = t.outLen
  errCode : t'.status.errCode = t.status.errCode
  lastOp : t'.status.lastOp = t.status.lastOp
  ctxValid : t'.status.ctxValid = t.status.ctxValid
  authOk : t'.status.authOk = t.status.authOk
  busy : t'.status.busy = t.status.busy
  tagInLen : t'.tagInLen = t.tagInLen
  rngPort : t'.rngPort = t.rngPort

/-- A completion writes AUTH_OK itself, so the flags before it do not show in its results. -/
theorem sameResults_complete (u : State) (k a : Bool) (b : IntBits) (op : BitVec 4) (code : ErrCode) (n : Nat) :
    SameResults (u.complete op code n) ((u.withFlags k a b).complete op code n) := by
  constructor <;> rfl

/-- Outcomes that differ in the unread flags alone complete alike, when the command does not go on waiting. -/
theorem SameRun.finish {r r' : ExecResult} (h : SameRun r r') (op : BitVec 4) (s t : State) (k a : Bool) (b : IntBits)
    (ht : finish op s r = .next t) (hb : t.status.busy ≠ s.status.busy) :
    ∃ t', finish op (s.withFlags k a b) r' = .next t' ∧ SameResults t t' := by
  cases h with
  | ok u n k' a' b' => cases ht; exact ⟨_, rfl, sameResults_complete u k' a' b' op .ok n⟩
  | fail code => cases ht; exact ⟨_, rfl, sameResults_complete s k a b op code 0⟩
  | waitRng => cases ht; exact absurd rfl hb
  | refuse => cases ht

/-- A command that completes does so with the same results whatever the unread flags are. -/
theorem exec_withFlags (s t : State) (k a : Bool) (b : IntBits) (i : Instr) (hi : i ≠ .nop) (h : exec i s = .next t)
    (hb : t.status.busy ≠ s.status.busy) : ∃ t', exec i (s.withFlags k a b) = .next t' ∧ SameResults t t' := by
  cases i with
  | nop => exact absurd rfl hi
  | keyexp => exact (runKeyexp_withFlags s k a b).finish 0x1 s t k a b h hb
  | encBlock => exact (runEncBlock_withFlags s k a b).finish 0x2 s t k a b h hb
  | decBlock => exact (runDecBlock_withFlags s k a b).finish 0x3 s t k a b h hb
  | cbcEnc => exact (runCbcEnc_withFlags s k a b).finish 0x4 s t k a b h hb
  | cbcDec => exact (runCbcDec_withFlags s k a b).finish 0x5 s t k a b h hb
  | gcmInit => exact (runGcmInit_withFlags s k a b).finish 0x6 s.dropContext t k a b h hb
  | gcmEnc => exact (runGcmEnc_withFlags s k a b).finish 0x7 s t k a b h hb
  | gcmDec => exact (runGcmDec_withFlags s k a b).finish 0x8 s t k a b h hb
  | reserved9 => exact (SameRun.fail .badOp).finish 0x9 s t k a b h hb
  | reservedAB op => exact (SameRun.fail .badOp).finish op s t k a b h hb
  | reservedCF op => exact (SameRun.fail .badOp).finish op s t k a b h hb

/-- Settles O30: each command's Exec takes the same way whatever the unread flags are (`exec_withFlags`). -/
theorem commandsReadNoHostFlag : Obligations.CommandsReadNoHostFlag := by
  intro s s' t i hi hs' h hb hbs
  obtain ⟨t', ht', r⟩ := exec_withFlags s t s'.status.ksValid s'.status.authOk s'.intStatus i hi h (by simp [hb, hbs])
  refine ⟨t', ?_, r.mem, r.outLen, r.errCode, r.lastOp, r.ctxValid, r.authOk, r.busy.trans hb, r.tagInLen, r.rngPort⟩
  rw [hs']
  exact ht'

end Sys2Proof.Machine

namespace Sys2Proof.Machine

/-! PROOFS. The address map: what an access reaches (R18, R30, R46, R47), and the window of R44. -/

/-- A register stands at one offset only (R18). -/
theorem Reg.at_eq_some (a : Nat) (r : Reg) : Reg.at a = some r ↔
    (a, r) ∈ [(0x000, Reg.id), (0x004, .version), (0x008, .param0), (0x00C, .param1), (0x010, .ctrl), (0x014, .cmd),
      (0x018, .status), (0x01C, .intStatus), (0x020, .intEnable), (0x024, .msgLen), (0x028, .aadLen), (0x02C, .nonceLen),
      (0x030, .tagInLen), (0x034, .outLen)] := by
  constructor
  · intro h
    unfold Reg.at at h
    split at h <;> cases h <;> decide
  · cases r <;> simp +contextual [Reg.at]

/-- The registers lie below 0x38, at multiples of 4 (R18). -/
theorem Reg.at_lt (a : Nat) (r : Reg) (h : Reg.at a = some r) : a < 0x38 ∧ a % 4 = 0 := by
  have hm := (Reg.at_eq_some a r).1 h
  simp only [List.mem_cons, List.not_mem_nil, Prod.mk.injEq, or_false] at hm
  omega

/-- An access reaches a register as a 4-byte access at the register's own offset (R46). -/
theorem locate_eq_reg (cfg : Config) (n : Size) (a : Nat) (r : Reg) :
    locate cfg n a = .reg r ↔ n = .word ∧ Reg.at a = some r := by
  have hlt := Reg.at_lt a r
  unfold locate
  split_ifs with h1 h2
  · cases hr : Reg.at a <;> simp [h2.1]
  · refine iff_of_false nofun ?_
    rintro ⟨rfl, hr⟩
    exact h2 ⟨rfl, (hlt hr).2⟩
  all_goals
    refine iff_of_false ?_ fun h => by have := hlt h.2; omega
    cases Arr.at cfg a <;> simp

/-- An access reaches an array when it is naturally aligned at one of the array's offsets (R46). -/
theorem locate_eq_arr (cfg : Config) (n : Size) (a : Nat) (x : Arr) :
    locate cfg n a = .arr x ↔ 0x100 ≤ a ∧ a % Size.bytes n = 0 ∧ Arr.at cfg a = some x := by
  unfold locate
  split_ifs with h1 h2 h3
  · cases Reg.at a <;> simp [Nat.not_le.2 h1]
  · simp [Nat.not_le.2 h1]
  · cases Arr.at cfg a <;> simp [Nat.not_lt.1 h1, h3]
  · simp [h3]

/-- The array found at an offset covers it. -/
theorem Arr.inArr_of_at (cfg : Config) (a : Nat) (x : Arr) (h : Arr.at cfg a = some x) : inArr x (x.size cfg) a := by
  have := List.find?_some h
  simpa [inArr] using this

/-- An access of the wrong width, a misaligned one, or one at a reserved offset reaches nothing (R47). -/
theorem locate_eq_reserved (cfg : Config) (n : Size) (a : Nat)
    (h : a < 0x100 ∧ (n ≠ .word ∨ a % 4 ≠ 0 ∨ 0x38 ≤ a) ∨ a % Size.bytes n ≠ 0 ∨
      0x100 ≤ a ∧ ∀ x : Arr, ¬ inArr x (x.size cfg) a) : locate cfg n a = .reserved := by
  cases hl : locate cfg n a with
  | reserved => rfl
  | reg r =>
    obtain ⟨rfl, hr⟩ := (locate_eq_reg cfg n a r).1 hl
    obtain ⟨hlt, h4⟩ := Reg.at_lt a r hr
    simp only [Size.bytes, ne_eq, not_true_eq_false, false_or] at h
    omega
  | arr x =>
    obtain ⟨hge, hal, hx⟩ := (locate_eq_arr cfg n a x).1 hl
    rcases h with ⟨hlt, -⟩ | h | ⟨-, h⟩
    · omega
    · exact absurd hal h
    · exact absurd (Arr.inArr_of_at cfg a x hx) (h x)

/-! ### The arrays lie apart -/

/-- Each array ends before the next one begins, under the constraints of R8. -/
theorem Arr.all_pairwise (cfg : Config) (hc : cfg.wf = true) :
    Arr.all.Pairwise fun x y => x.base + x.size cfg ≤ y.base := by
  simp only [Config.wf, Bool.and_eq_true, decide_eq_true_eq] at hc
  simp only [Arr.all, List.pairwise_cons, List.mem_cons, List.not_mem_nil, or_false, forall_eq_or_imp, forall_eq, Arr.base,
    Arr.size, List.Pairwise.nil, IsEmpty.forall_iff, implies_true, and_true]
  omega

theorem Arr.mem_all (x : Arr) : x ∈ Arr.all := by cases x <;> decide

/-- No offset lies in two arrays (R30). -/
theorem Arr.eq_of_inArr (cfg : Config) (hc : cfg.wf = true) (x y : Arr) (a : Nat) (hx : inArr x (x.size cfg) a)
    (hy : inArr y (y.size cfg) a) : x = y := by
  have hdisjoint : Arr.all.Pairwise fun x y => inArr x (x.size cfg) a → ¬inArr y (y.size cfg) a :=
    (Arr.all_pairwise cfg hc).imp fun hle hx hy => by unfold inArr at hx hy; omega
  have : Std.Symm fun x y : Arr => inArr x (x.size cfg) a → ¬inArr y (y.size cfg) a := ⟨fun _ _ h hy hx => h hx hy⟩
  by_contra hne
  exact hdisjoint.forall (Arr.mem_all x) (Arr.mem_all y) hne hx hy

/-- The array at an offset is the one that covers it (R30). -/
theorem Arr.at_eq_some (cfg : Config) (hc : cfg.wf = true) (a : Nat) (x : Arr) :
    Arr.at cfg a = some x ↔ inArr x (x.size cfg) a := by
  refine ⟨Arr.inArr_of_at cfg a x, fun h => ?_⟩
  cases hy : Arr.at cfg a with
  | none =>
    have := List.find?_eq_none.1 hy x (Arr.mem_all x)
    simp only [Bool.and_eq_true, decide_eq_true_eq] at this
    exact absurd h this
  | some y => rw [Arr.eq_of_inArr cfg hc y x a (Arr.inArr_of_at cfg a y hy) h]

/-- No array begins below 0x100 (R30). -/
theorem Arr.base_ge (x : Arr) : 0x100 ≤ x.base := by cases x <;> decide

/-- Arrays begin and end at multiples of 16 bytes (R8, R30). -/
theorem Arr.base_mod (x : Arr) : x.base % 16 = 0 := by cases x <;> decide

theorem Arr.size_mod (cfg : Config) (hc : cfg.wf = true) (x : Arr) : x.size cfg % 16 = 0 := by
  simp only [Config.wf, Bool.and_eq_true, decide_eq_true_eq, beq_iff_eq] at hc
  cases x <;> simp only [Arr.size] <;> omega

/-- The array that an access reaches is the one that covers its offset (R30, R46). -/
theorem locate_eq_arr_iff (cfg : Config) (hc : cfg.wf = true) (n : Size) (a : Nat) (x : Arr) :
    locate cfg n a = .arr x ↔ a % Size.bytes n = 0 ∧ inArr x (x.size cfg) a := by
  rw [locate_eq_arr, Arr.at_eq_some cfg hc]
  exact ⟨And.right, fun h => ⟨(Arr.base_ge x).trans h.2.1, h⟩⟩

/-- A naturally aligned access lies whole in the array of its first byte (R46). -/
theorem inArr_of_locate (cfg : Config) (hc : cfg.wf = true) (n : Size) (a : Nat) (x : Arr)
    (h : locate cfg n a = .arr x) (b : Nat) (h1 : a ≤ b) (h2 : b < a + Size.bytes n) : inArr x (x.size cfg) b := by
  obtain ⟨hal, hge, hlt⟩ := (locate_eq_arr_iff cfg hc n a x).1 h
  have hb := Arr.base_mod x
  have hs := Arr.size_mod cfg hc x
  unfold inArr
  cases n <;> simp only [Size.bytes] at hal h2 <;> omega

end Sys2Proof.Machine

namespace Sys2Proof.Machine

/-! PROOFS. One equation for each way a host access and its step can end. -/

/-- A step takes the first event of the list (R57). -/
theorem step_of_events (s : State) (e : Event) (es : List Event) (h : s.events = e :: es) :
    step s = runEvent { s with events := es } e := by
  rw [step, takeStep, h]

/-! ### Reads -/

theorem hostRead_ok (s : State) (n : Size) (a : BitVec 16) (v : Word) (h : memRead s n a = .ok v) :
    hostRead s n a = s.respond (.data v) := by
  rw [hostRead, h]

theorem hostRead_error (s : State) (n : Size) (a : BitVec 16) (f : Fault) (h : memRead s n a = .error f) :
    hostRead s n a = s.respond (.error f) := by
  rw [hostRead, h]

theorem memRead_reserved (s : State) (n : Size) (a : BitVec 16) (hl : locate s.cfg n a.toNat = .reserved) :
    memRead s n a = .error (.busError a) := by
  rw [memRead, hl]

theorem memRead_reg (s : State) (n : Size) (a : BitVec 16) (r : Reg) (hl : locate s.cfg n a.toNat = .reg r) :
    memRead s n a = .ok (if s.status.busy && !r.busyReadable then 0 else regValue s r) := by
  rw [memRead, hl]

theorem memRead_arr (s : State) (n : Size) (a : BitVec 16) (x : Arr) (hl : locate s.cfg n a.toNat = .arr x) :
    memRead s n a =
      .ok (if s.status.busy then 0 else leWord (Memory.readBytes s.resets s.mem a.toNat (Size.bytes n))) := by
  rw [memRead, hl]

/-- A POLL ends when the masked value is the wanted one (R67). -/
theorem hostPoll_done (s : State) (a : BitVec 16) (mask val v : Word) (h : memRead s .word a = .ok v)
    (hv : v &&& mask = val) : hostPoll s a mask val = s.respond (.data v) := by
  simp only [hostPoll, h, if_pos hv]

/-- Otherwise the engine has its turn and the POLL repeats (R67, log 7). -/
theorem hostPoll_again (s : State) (a : BitVec 16) (mask val v : Word) (h : memRead s .word a = .ok v)
    (hv : v &&& mask ≠ val) :
    hostPoll s a mask val = { s.respond (.data v) with events := .engine :: .poll a mask val :: s.events } := by
  simp only [hostPoll, h, if_neg hv]

/-- A bus error ends a POLL (log 7). -/
theorem hostPoll_error (s : State) (a : BitVec 16) (mask val : Word) (f : Fault) (h : memRead s .word a = .error f) :
    hostPoll s a mask val = s.respond (.error f) := by
  rw [hostPoll, h]

/-! ### Writes -/

theorem hostWrite_reserved (s : State) (n : Size) (a : BitVec 16) (v : Word)
    (hl : locate s.cfg n a.toNat = .reserved) : hostWrite s n a v = .next (s.respond (.error (.busError a))) := by
  rw [hostWrite, hl]

theorem hostWrite_reg_readOnly (s : State) (n : Size) (a : BitVec 16) (v : Word) (r : Reg)
    (hl : locate s.cfg n a.toNat = .reg r) (hr : r.readOnly = true) :
    hostWrite s n a v = .next (s.respond (.error (.busError a))) := by
  simp only [hostWrite, hl, if_pos hr]

theorem hostWrite_arr_readOnly (s : State) (n : Size) (a : BitVec 16) (v : Word) (x : Arr)
    (hl : locate s.cfg n a.toNat = .arr x) (hx : x.readOnly = true) :
    hostWrite s n a v = .next (s.respond (.error (.busError a))) := by
  simp only [hostWrite, hl, if_pos hx]

/-- An idle write of a writable register but CMD stores its fields (R50). -/
theorem hostWrite_reg_idle (s : State) (n : Size) (a : BitVec 16) (v : Word) (r : Reg)
    (hl : locate s.cfg n a.toNat = .reg r) (hr : r.readOnly = false) (hc : r ≠ .cmd) (hb : s.status.busy = false) :
    hostWrite s n a v = .next ((s.writeReg v r).respond .okay) := by
  simp [hostWrite, hl, hr, hc, hb]

/-- An idle write of a writable array stores its bytes (R50). -/
theorem hostWrite_arr_idle (s : State) (n : Size) (a : BitVec 16) (v : Word) (x : Arr)
    (hl : locate s.cfg n a.toNat = .arr x) (hx : x.readOnly = false) (hb : s.status.busy = false) :
    hostWrite s n a v = .next ((s.writeArr n a.toNat v x).respond .okay) := by
  simp [hostWrite, hl, hx, hb]

/-! ### The bus target port -/

/-- An address outside the window has no offset (R44). -/
theorem windowOffset_eq_none (cfg : Config) (addr : Nat) (h : addr < cfg.base ∨ cfg.base + 0x10000 ≤ addr) :
    windowOffset cfg addr = none := by
  rw [windowOffset, if_neg (by omega)]

theorem portRead_inside (s : State) (n : Size) (addr : Nat) (a : BitVec 16) (h : windowOffset s.cfg addr = some a) :
    portRead s n addr = hostRead s n a := by
  rw [portRead, h]

theorem portRead_outside (s : State) (n : Size) (addr : Nat) (h : windowOffset s.cfg addr = none) :
    portRead s n addr = s := by
  rw [portRead, h]

theorem portWrite_inside (s : State) (n : Size) (addr : Nat) (v : Word) (a : BitVec 16)
    (h : windowOffset s.cfg addr = some a) : portWrite s n addr v = hostWrite s n a v := by
  rw [portWrite, h]

theorem portWrite_outside (s : State) (n : Size) (addr : Nat) (v : Word) (h : windowOffset s.cfg addr = none) :
    portWrite s n addr v = .next s := by
  rw [portWrite, h]

end Sys2Proof.Machine

namespace Sys2Proof.Machine

/-! PROOFS. Which accesses answer what: reads, the address map, bus errors, and that no step stops. -/

/-- Settles O10: a step stops only on a context with KEYLEN = 0b11 (`step_next_or_refused`), which R79's clause of the
invariant excludes. -/
theorem noStepStops : Obligations.NoStepStops := by
  intro s hs
  rcases step_next_or_refused s with h | ⟨-, hctx, hk, -⟩
  · exact h
  · obtain ⟨-, -, -, -, -, -, nk, hnk, -⟩ := hs.ctx hctx
    exact absurd hk (keyLen_ne _ nk hnk)

/-- Settles O33, by the equations for a read and for the three ends of a POLL's read. -/
theorem readsHaveNoSideEffect : Obligations.ReadsHaveNoSideEffect := by
  refine ⟨fun s n a es he => ?_, fun s a mask val es he => ⟨fun v h hv => ?_, fun v h hv => ?_, fun f h => ?_⟩⟩
  · refine (step_of_events s _ es he).trans (congrArg Host.Outcome.next ?_)
    cases h : memRead s n a with
    | ok v => exact hostRead_ok { s with events := es } n a v h
    | error f => exact hostRead_error { s with events := es } n a f h
  · exact (step_of_events s _ es he).trans (congrArg _ (hostPoll_done { s with events := es } a mask val v h hv))
  · exact (step_of_events s _ es he).trans (congrArg _ (hostPoll_again { s with events := es } a mask val v h hv))
  · exact (step_of_events s _ es he).trans (congrArg _ (hostPoll_error { s with events := es } a mask val f h))

/-- Settles O35, by `locate_eq_reg`, `locate_eq_arr_iff` and the equations of the bus target port. -/
theorem legalAccessesReachOneLocation : Obligations.LegalAccessesReachOneLocation := by
  refine ⟨fun cfg n a r => ?_, fun cfg n a x hc => ⟨locate_eq_arr_iff cfg hc n a x, fun h => ?_⟩,
    fun s n addr v es => ⟨fun a ha => ?_, fun ha => ?_⟩⟩
  · rw [locate_eq_reg, Reg.at_eq_some]
  · exact inArr_of_locate cfg hc n a x h _ (by omega) (by cases n <;> simp [Size.bytes])
  · have hw : windowOffset s.cfg addr = some a := (windowOffset_eq_some s.cfg addr a).2 ha
    exact ⟨congrArg Host.Outcome.next (portRead_inside { s with events := es } n addr a hw),
      portWrite_inside { s with events := es } n addr v a hw⟩
  · have hw := windowOffset_eq_none s.cfg addr ha
    exact ⟨congrArg Host.Outcome.next (portRead_outside { s with events := es } n addr hw),
      portWrite_outside { s with events := es } n addr v hw⟩

/-- Settles O36: such an access reaches nothing (`locate_eq_reserved`), whatever BUSY is. -/
theorem illegalAccessIsABusError : Obligations.IllegalAccessIsABusError := by
  intro s n a v es h he
  have hl := locate_eq_reserved s.cfg n a.toNat h
  rcases he with he | he
  · exact (step_of_events s _ es he).trans (congrArg _
      (hostRead_error { s with events := es } n a _ (memRead_reserved _ n a hl)))
  · exact (step_of_events s _ es he).trans (hostWrite_reserved { s with events := es } n a v hl)

/-- Settles O37: the named locations are read-only, and CMD, which a read sees whether BUSY = 1 or not, has the value 0. -/
theorem readOnlyWriteIsABusError : Obligations.ReadOnlyWriteIsABusError := by
  refine ⟨fun s => ?_, fun s n a v es he h => (step_of_events s _ es he).trans ?_⟩
  · rw [memRead_reg s .word 0x0014 .cmd rfl]
    simp [Reg.busyReadable, regValue]
  · rcases h with ⟨r, hr, hl⟩ | ⟨x, hx, hl⟩
    · have hro : r.readOnly = true := by clear hl; revert r; decide
      exact hostWrite_reg_readOnly { s with events := es } n a v r hl hro
    · have hro : x.readOnly = true := by clear hl; revert x; decide
      exact hostWrite_arr_readOnly { s with events := es } n a v x hl hro

end Sys2Proof.Machine

namespace Sys2Proof.Machine

/-! PROOFS. The bus lanes of a word (R53): reading bytes as a word, a word's bytes read back, and the low half of a read. -/

/-- The low `n` bytes of a word. -/
def lowBytes (n : Nat) (v : Word) : Word := v &&& (BitVec.allOnes (8 * n)).setWidth 32

/-- A word read from fewer bytes is the low part of the word read from all. -/
theorem leWord_take (n : Nat) (bs : Bytes) : leWord (bs.take n) = lowBytes n (leWord bs) := by
  ext i hi
  simp only [lowBytes, BitVec.getElem_and, BitVec.getElem_setWidth, BitVec.getLsbD_allOnes]
  induction bs generalizing n i with
  | nil => simp [leWord]
  | cons b bs ih =>
    cases n with
    | zero => simp [leWord]
    | succ n =>
      simp only [List.take_succ_cons, leWord, BitVec.getElem_or, BitVec.getElem_shiftLeft, BitVec.getElem_setWidth]
      by_cases h8 : i < 8
      · simp [h8, show i < 8 * (n + 1) by omega]
      · have hiff : i < 8 * (n + 1) ↔ i - 8 < 8 * n := by omega
        simp [h8, ih n (i - 8) (by omega), BitVec.getLsbD_of_ge b i (by omega), hiff]

/-- The bytes of a word read as a word again give its low bytes (R50, R53). -/
theorem leWord_leBytes (n : Nat) (v : Word) : leWord (leBytes n v) = lowBytes n v := by
  ext i hi
  simp only [lowBytes, BitVec.getElem_and, BitVec.getElem_setWidth, BitVec.getLsbD_allOnes]
  induction n generalizing v i with
  | zero => simp [leBytes, leWord]
  | succ n ih =>
    simp only [leBytes, leWord, BitVec.getElem_or, BitVec.getElem_shiftLeft, BitVec.getElem_setWidth, BitVec.getLsbD_setWidth]
    by_cases h8 : i < 8
    · simp [h8, show i < 8 * (n + 1) by omega, BitVec.getLsbD_eq_getElem hi]
    · have hiff : i < 8 * (n + 1) ↔ i - 8 < 8 * n := by omega
      simp [h8, ih (v >>> 8) (i - 8) (by omega), hiff, show 8 + (i - 8) = i by omega, BitVec.getLsbD_eq_getElem hi]

/-- Settles O32: the two bytes of the half read begin the four of the word read (`leWord_take`). -/
theorem halfReadIsTheLowHalf : Obligations.HalfReadIsTheLowHalf := by
  intro s a x v h4 hl hv
  obtain ⟨hge, -, hx⟩ := (locate_eq_arr _ _ _ _).1 hl
  have hl' : locate s.cfg .half a.toNat = .arr x :=
    (locate_eq_arr _ _ _ _).2 ⟨hge, by simp only [Size.bytes]; omega, hx⟩
  rw [memRead_arr s .word a x hl] at hv
  rw [memRead_arr s .half a x hl', ← Except.ok.inj hv]
  cases s.status.busy with
  | true => simp
  | false =>
    have htake := Memory.readBytes_take s.resets s.mem a.toNat 4 2 (by omega)
    exact congrArg Except.ok ((congrArg leWord htake.symm).trans (leWord_take 2 _))

end Sys2Proof.Machine

namespace Sys2Proof.Machine

/-! PROOFS. What host writes keep, and that an idle array write is read back. -/

@[simp] theorem regValue_respond (s : State) (r : BusResponse) (q : Reg) : regValue (s.respond r) q = regValue s q := by
  cases q <;> rfl

/-- STATUS after a host write that issues no command: only the validity flags may differ, and none of them is set. -/
structure FlagsDropped (u u' : Status) : Prop where
  rest : u' = { u with ksValid := u'.ksValid, ctxValid := u'.ctxValid }
  ksValid : u'.ksValid = true → u.ksValid = true
  ctxValid : u'.ctxValid = true → u.ctxValid = true

theorem FlagsDropped.refl (u : Status) : FlagsDropped u u := ⟨rfl, id, id⟩

theorem State.flagsDropped_dropKey (s : State) : FlagsDropped s.status s.dropKey.status := ⟨rfl, nofun, nofun⟩

theorem State.flagsDropped_dropContext (s : State) : FlagsDropped s.status s.dropContext.status := ⟨rfl, id, nofun⟩

theorem State.flagsDropped_writeReg (s : State) (v : Word) (r : Reg) :
    FlagsDropped s.status (s.writeReg v r).status := by
  cases r with
  | ctrl => exact s.flagsDropped_dropKey
  | aadLen | nonceLen => exact s.flagsDropped_dropContext
  | _ => exact .refl _

theorem State.flagsDropped_writeArr (s : State) (n : Size) (a : Nat) (v : Word) (x : Arr) :
    FlagsDropped s.status (s.writeArr n a v x).status := by
  cases x with
  | key => exact s.flagsDropped_dropKey
  | nonceBuf | aadBuf => exact s.flagsDropped_dropContext
  | _ => exact .refl _

/-! ### Array writes -/

@[simp] theorem State.writeArr_mem (s : State) (n : Size) (a : Nat) (v : Word) (x : Arr) :
    (s.writeArr n a v x).mem = Memory.writeBytes s.resets s.mem a (leBytes (Size.bytes n) v) :=
  State.invalidateArr_mem _ x

@[simp] theorem State.writeArr_resets (s : State) (n : Size) (a : Nat) (v : Word) (x : Arr) :
    (s.writeArr n a v x).resets = s.resets :=
  State.invalidateArr_resets _ x

/-- An array write reaches the `n` bytes from its offset on only. -/
theorem State.keptOutside_writeArr (s : State) (hs : s.memWf = true) (n : Size) (a : Nat) (v : Word) (x : Arr) :
    KeptOutside s (s.writeArr n a v x) fun b => a ≤ b ∧ b < a + Size.bytes n := fun b hb => by
  rw [State.byteAt, State.byteAt, State.writeArr_mem, State.writeArr_resets]
  exact Memory.read_writeBytes_outside _ _ _ _ hs b (by rw [leBytes_length]; omega)

/-- An array write changes no hidden state. -/
theorem State.keptHidden_writeArr (s : State) (n : Size) (a : Nat) (v : Word) (x : Arr) :
    KeptHidden s (s.writeArr n a v x) := by
  constructor <;> simp [State.writeArr]

/-- An array write changes no register but STATUS. -/
theorem regValue_writeArr (s : State) (n : Size) (a : Nat) (v : Word) (x : Arr) (q : Reg) (hq : q ≠ .status) :
    regValue (s.writeArr n a v x) q = regValue s q := by
  cases q with
  | status => exact absurd rfl hq
  | _ => simp [regValue, State.writeArr]

/-- An idle read after an array write of the same place and size gives the low bytes written (R50, R53). -/
theorem memRead_writeArr (s : State) (hs : s.memWf = true) (n : Size) (a : BitVec 16) (v : Word) (x : Arr)
    (hl : locate s.cfg n a.toNat = .arr x) (hb : s.status.busy = false) :
    memRead (s.writeArr n a.toNat v x) n a = .ok (lowBytes (Size.bytes n) v) := by
  have hbusy : (s.writeArr n a.toNat v x).status.busy = false := by
    rw [(s.flagsDropped_writeArr n a.toNat v x).rest]; exact hb
  have hread := Memory.readBytes_writeBytes_same s.resets s.mem a.toNat (leBytes (Size.bytes n) v) hs
  rw [leBytes_length] at hread
  rw [memRead_arr _ n a x (by rw [State.writeArr_cfg]; exact hl), hbusy, State.writeArr_mem, State.writeArr_resets, hread,
    leWord_leBytes]
  rfl

/-- Settles O41: the idle write is `State.writeArr`, whose read-back and frame are the lemmas above. -/
theorem arrayWriteIsReadBack : Obligations.ArrayWriteIsReadBack := by
  intro s n a v x es hs he hb hl hx
  let u : State := { s with events := es }
  refine ⟨(u.writeArr n a.toNat v x).respond .okay,
    (step_of_events s _ es he).trans (hostWrite_arr_idle u n a v x hl hx hb), rfl, State.invalidateArr_events _ x, ?_,
    u.keptOutside_writeArr hs n a.toNat v x, ?_, (u.flagsDropped_writeArr n a.toNat v x).rest, fun q hq => ?_⟩
  · refine (memRead_writeArr u hs n a v x hl hb).trans (congrArg Except.ok ?_)
    cases n with
    | byte | half => rfl
    | word => exact BitVec.and_allOnes
  · obtain ⟨hcfg, hop, hwait, hport, hresets⟩ := u.keptHidden_writeArr n a.toNat v x
    exact ⟨hcfg, hop, hwait, hport, hresets⟩
  · rw [regValue_respond, regValue_writeArr u n a.toNat v x q hq]
    cases q <;> rfl

/-! ### What no host write changes -/

/-- OUT_LEN is the engine's (R29). -/
theorem WriteEnds.outLen {s t : State} {n : Size} {a : BitVec 16} {v : Word} (h : WriteEnds s n a v t) :
    t.outLen = s.outLen := by
  cases h with
  | error | droppedReg | droppedArr | nop | issue => rfl
  | reg r => exact State.writeReg_outLen s v r
  | arr x => exact State.invalidateArr_outLen _ x

/-- A host write changes STATUS by dropping validity flags or by setting BUSY (R24). -/
theorem WriteEnds.status {s t : State} {n : Size} {a : BitVec 16} {v : Word} (h : WriteEnds s n a v t) :
    FlagsDropped s.status t.status ∨ t.status = { s.status with busy := true } := by
  cases h with
  | error | droppedReg | droppedArr | nop => exact .inl (.refl _)
  | issue => exact .inr rfl
  | reg r => exact .inl (s.flagsDropped_writeReg v r)
  | arr x => exact .inl (s.flagsDropped_writeArr n a.toNat v x)

/-- A host write changes no byte of an array that a host may not write (R48): what it changes lies in the array it reaches. -/
theorem WriteEnds.byteAt_readOnly {s t : State} {n : Size} {a : BitVec 16} {v : Word} (h : WriteEnds s n a v t)
    (hs : s.memWf = true) (hc : s.cfg.wf = true) (y : Arr) (hy : y.readOnly = true) (b : Nat)
    (hb : inArr y (y.size s.cfg) b) : t.byteAt b = s.byteAt b := by
  cases h with
  | error | droppedReg | droppedArr | nop | issue => rfl
  | reg r => cases r <;> rfl
  | arr x hl hx =>
    refine s.keptOutside_writeArr hs n a.toNat v x b fun hin => ?_
    have hxy := Arr.eq_of_inArr s.cfg hc x y b (inArr_of_locate s.cfg hc n a.toNat x hl b hin.1 hin.2) hb
    simp [hxy, hy] at hx

/-- Settles O38, by what every end of a host write keeps. -/
theorem hostWritesKeepTheResults : Obligations.HostWritesKeepTheResults := by
  intro s t n a v es hs hc he h
  obtain ⟨t', ht', hw⟩ := hostWrite_ends { s with events := es } n a v
  cases (((step_of_events s _ es he).trans ht').symm.trans h)
  refine ⟨hw.outLen, fun x hx b hb => ?_, ?_⟩
  · have hro : x.readOnly = true := by clear hb; revert x; decide
    exact hw.byteAt_readOnly hs hc x hro b hb
  · rcases hw.status with ⟨hrest, hks, hctx⟩ | hissue
    · rw [hrest]; exact ⟨rfl, rfl, rfl, hks, hctx, id⟩
    · rw [hissue]; exact ⟨rfl, rfl, rfl, id, id, fun _ => rfl⟩

end Sys2Proof.Machine

namespace Sys2Proof.Machine

/-! PROOFS. What an idle register write stores, and how the register reads afterwards (R22, R25 to R28, R50). -/

/-! ### Fields of a written word -/

/-- A flag is a power of 2 or nothing. -/
theorem flagBit_eq (b : Bool) (i : Nat) : flagBit b i = if b then BitVec.twoPow 32 i else 0 := by
  have htwo : ((1 <<< i : Nat) : Word) = BitVec.twoPow 32 i := by
    apply BitVec.eq_of_toNat_eq
    simp [BitVec.toNat_twoPow, Nat.shiftLeft_eq]
  rw [flagBit, htwo]

/-- A flag taken from a bit of a word is that bit of the word. -/
theorem flagBit_getLsbD (v : Word) (i : Nat) : flagBit (v.getLsbD i) i = v &&& BitVec.twoPow 32 i := by
  rw [flagBit_eq, BitVec.and_twoPow]
  rfl

/-- A field taken from a word and put back is the word masked. -/
theorem setWidth_extractLsb' (v : Word) (p k : Nat) :
    (v.extractLsb' p k).setWidth 32 <<< p = v &&& (BitVec.allOnes k).setWidth 32 <<< p := by
  ext i hi
  by_cases hp : i < p
  · simp [hp]
  · simp [hp, show p + (i - p) = i by omega, BitVec.getLsbD_eq_getElem hi, Bool.and_comm]

/-- A field at bit 0. -/
theorem setWidth_extractLsb'_zero (v : Word) (k : Nat) :
    (v.extractLsb' 0 k).setWidth 32 = v &&& (BitVec.allOnes k).setWidth 32 := by
  simpa using setWidth_extractLsb' v 0 k

/-- CTRL reads as the written word without its reserved bits (R22). -/
theorem Ctrl.toWord_ofWord (v : Word) : (Ctrl.ofWord v).toWord = v &&& 0x00001F0F := by
  simp only [Ctrl.toWord, Ctrl.ofWord, setWidth_extractLsb'_zero, setWidth_extractLsb', flagBit_getLsbD,
    ← BitVec.and_or_distrib_left]
  rfl

/-- INT_ENABLE reads as the three low bits written (R26). -/
theorem IntBits.toWord_ofWord (v : Word) : (IntBits.ofWord v).toWord = v &&& 0x7 := by
  simp only [IntBits.toWord, IntBits.ofWord, flagBit_getLsbD, ← BitVec.and_or_distrib_left]
  rfl

/-- INT_STATUS reads without the bits written as 1 (R25). -/
theorem IntBits.toWord_clear (b : IntBits) (v : Word) : (b.clear v).toWord = b.toWord &&& ~~~(v &&& 0x7) := by
  have hbits : ∀ d e f d' e' f' : Bool,
      IntBits.toWord { done := d && !d', err := e && !e', busyErr := f && !f' } =
        IntBits.toWord { done := d, err := e, busyErr := f } &&&
          ~~~IntBits.toWord { done := d', err := e', busyErr := f' } := by decide
  rw [← IntBits.toWord_ofWord]
  exact hbits b.done b.err b.busyErr _ _ _

/-! ### What a register write leaves -/

section
variable (s : State) (v : Word) (r : Reg)

theorem State.writeReg_ctrl_of_ne (h : r ≠ .ctrl) : (s.writeReg v r).ctrl = s.ctrl := by
  cases r with
  | ctrl => exact absurd rfl h
  | _ => rfl

theorem State.writeReg_intStatus_of_ne (h : r ≠ .intStatus) : (s.writeReg v r).intStatus = s.intStatus := by
  cases r with
  | intStatus => exact absurd rfl h
  | _ => rfl

theorem State.writeReg_intEnable_of_ne (h : r ≠ .intEnable) : (s.writeReg v r).intEnable = s.intEnable := by
  cases r with
  | intEnable => exact absurd rfl h
  | _ => rfl

theorem State.writeReg_msgLen_of_ne (h : r ≠ .msgLen) : (s.writeReg v r).msgLen = s.msgLen := by
  cases r with
  | msgLen => exact absurd rfl h
  | _ => rfl

theorem State.writeReg_aadLen_of_ne (h : r ≠ .aadLen) : (s.writeReg v r).aadLen = s.aadLen := by
  cases r with
  | aadLen => exact absurd rfl h
  | _ => rfl

theorem State.writeReg_nonceLen_of_ne (h : r ≠ .nonceLen) : (s.writeReg v r).nonceLen = s.nonceLen := by
  cases r with
  | nonceLen => exact absurd rfl h
  | _ => rfl

theorem State.writeReg_tagInLen_of_ne (h : r ≠ .tagInLen) : (s.writeReg v r).tagInLen = s.tagInLen := by
  cases r with
  | tagInLen => exact absurd rfl h
  | _ => rfl

/-- A register write changes no other register's word but STATUS's. -/
theorem regValue_writeReg_of_ne (q : Reg) (hq : q ≠ r) (hst : q ≠ .status) :
    regValue (s.writeReg v r) q = regValue s q := by
  cases q with
  | status => exact absurd rfl hst
  | ctrl => exact congrArg Ctrl.toWord (s.writeReg_ctrl_of_ne v r hq.symm)
  | intStatus => exact congrArg IntBits.toWord (s.writeReg_intStatus_of_ne v r hq.symm)
  | intEnable => exact congrArg IntBits.toWord (s.writeReg_intEnable_of_ne v r hq.symm)
  | msgLen => exact congrArg (BitVec.setWidth 32) (s.writeReg_msgLen_of_ne v r hq.symm)
  | aadLen => exact congrArg (BitVec.setWidth 32) (s.writeReg_aadLen_of_ne v r hq.symm)
  | nonceLen => exact congrArg (BitVec.setWidth 32) (s.writeReg_nonceLen_of_ne v r hq.symm)
  | tagInLen => exact congrArg (BitVec.setWidth 32) (s.writeReg_tagInLen_of_ne v r hq.symm)
  | id | version | cmd => rfl
  | param0 | param1 | outLen => simp [regValue]

/-- A register write changes no hidden state. -/
theorem State.keptHidden_writeReg : KeptHidden s (s.writeReg v r) := by
  constructor <;> simp

end

/-- The word that a register a host may write reads as after a write of `v` (R22, R25 to R28). -/
def writtenWord (s : State) (v : Word) : Reg → Word
  | .ctrl => v &&& 0x00001F0F
  | .intStatus => regValue s .intStatus &&& ~~~(v &&& 0x7)
  | .intEnable => v &&& 0x7
  | .tagInLen => v &&& 0x1F
  | _ => v &&& 0xFFFF

/-- The registers that a host write stores a field in. -/
abbrev storingRegs : List Reg := [.ctrl, .intStatus, .intEnable, .msgLen, .aadLen, .nonceLen, .tagInLen]

/-- A written register reads as its fields of the written word (R50). -/
theorem regValue_writeReg_same (s : State) (v : Word) (r : Reg) (hr : r ∈ storingRegs) :
    regValue (s.writeReg v r) r = writtenWord s v r := by
  cases r with
  | ctrl => exact Ctrl.toWord_ofWord v
  | intStatus => exact IntBits.toWord_clear s.intStatus v
  | intEnable => exact IntBits.toWord_ofWord v
  | msgLen | aadLen | nonceLen => exact setWidth_extractLsb'_zero v 16
  | tagInLen => exact setWidth_extractLsb'_zero v 5
  | id | version | param0 | param1 | cmd | status | outLen => simp at hr

/-- Settles O40: the idle write is `State.writeReg`, which stores the fields by its definition, reads back by
`regValue_writeReg_same` and keeps the other registers by `regValue_writeReg_of_ne`. -/
theorem registerWritesStore : Obligations.RegisterWritesStore := by
  intro s a v r es he hb hl hr
  let u : State := { s with events := es }
  have hwritable : r.readOnly = false ∧ r ≠ .cmd := by clear hl; revert r; decide
  obtain ⟨hcfg, hop, hwait, hport, hresets⟩ := u.keptHidden_writeReg v r
  have hmem : (u.writeReg v r).mem = s.mem := State.writeReg_mem u v r
  refine ⟨(u.writeReg v r).respond .okay,
    (step_of_events s _ es he).trans (hostWrite_reg_idle u .word a v r hl hwritable.1 hwritable.2 hb), hmem, rfl,
    State.writeReg_events u v r, ⟨hcfg, hop, hwait, hport, hresets⟩, fun b _ => ?_, ?_, ?_, ?_, ?_, ?_, ?_, ?_,
    (u.flagsDropped_writeReg v r).rest, ?_, fun q hq hst => ?_⟩
  · exact congrArg₂ (Memory.read · · b) hresets hmem
  · rintro rfl; exact ⟨rfl, rfl, rfl, rfl⟩
  · rintro rfl; exact ⟨rfl, rfl, rfl⟩
  · rintro rfl; exact ⟨rfl, rfl, rfl⟩
  · rintro rfl; rfl
  · rintro rfl; rfl
  · rintro rfl; rfl
  · rintro rfl; rfl
  · rw [regValue_respond, regValue_writeReg_same u v r hr]
    cases r <;> rfl
  · rw [regValue_respond, regValue_writeReg_of_ne u v r q hq hst]
    cases q <;> rfl

end Sys2Proof.Machine

namespace Sys2Proof

/-! PROOFS. The decoder and the encoder of command words: the OP field, the ignored bits, and the round trips (R62, R64). -/

open Sys2Proof.Machine (decode_eq_decodeOp opcode_decodeOp)

/-- Two opcodes with one command are the same: a command's opcode gives back the one it was decoded from. -/
theorem decodeOp_injective : Function.Injective decodeOp :=
  Function.LeftInverse.injective (g := opcode) fun op => (opcode_decodeOp op).1

/-- The opcode of a well-formed command decodes to it (R64). -/
theorem decodeOp_opcode (i : Instr) (h : i.wellFormed = true) : decodeOp (opcode i) = i := by
  cases i with
  | nop | keyexp | encBlock | decBlock | cbcEnc | cbcDec | gcmInit | gcmEnc | gcmDec | reserved9 => rfl
  | reservedAB op | reservedCF op => revert op; decide

/-- Bits 3:0 of a word are its OP, whatever the 28 bits above them hold (R62). -/
@[simp] theorem opField_append (hi : BitVec 28) (op : BitVec 4) : opField (hi ++ op) = op :=
  BitVec.extractLsb'_append_eq_right

/-- The encoder puts the opcode in the OP field (R62). -/
@[simp] theorem opField_encode (i : Instr) : opField (encode i) = opcode i := by
  simp [opField, encode, ← BitVec.setWidth_eq_extractLsb']

/-- A well-formed command's opcode decodes to it below any 28 ignored bits (R62). -/
theorem decode_append_opcode (i : Instr) (h : i.wellFormed = true) (hi : BitVec 28) : decode (hi ++ opcode i) = i := by
  rw [decode_eq_decodeOp, opField_append, decodeOp_opcode i h]

/-- A well-formed command's word decodes to it. -/
theorem decode_encode (i : Instr) (h : i.wellFormed = true) : decode (encode i) = i := by
  rw [decode_eq_decodeOp, opField_encode, decodeOp_opcode i h]

/-- Settles O1: the table's words are the encodings of well-formed commands, and the last word has KEYEXP's opcode below
ignored bits that are all 1. -/
theorem commandWordsDecode : Obligations.CommandWordsDecode :=
  ⟨decode_encode .nop rfl, decode_encode .keyexp rfl, decode_encode .encBlock rfl, decode_encode .decBlock rfl,
    decode_encode .cbcEnc rfl, decode_encode .cbcDec rfl, decode_encode .gcmInit rfl, decode_encode .gcmEnc rfl,
    decode_encode .gcmDec rfl, decode_encode .reserved9 rfl, decode_encode (.reservedAB 0xB) rfl,
    decode_encode (.reservedCF 0xF) rfl, decode_append_opcode .keyexp rfl 0xFFFFFFF⟩

/-- Settles O2: `decode` is `decodeOp` of the OP field, and `decodeOp` is injective. -/
theorem decodeReadsExactlyOp : Obligations.DecodeReadsExactlyOp :=
  fun _ _ => decodeOp_injective.eq_iff

/-- Settles O3: the encoder's OP field is the command's opcode, which decodes to it below any ignored bits; and two
well-formed commands of one word are both what it decodes to. -/
theorem decodeEncodeAgree : Obligations.DecodeEncodeAgree := by
  refine ⟨fun i h hi => ?_, fun w => ?_, fun i j hi hj hij => ?_⟩
  · rw [← opField, opField_encode, decode_append_opcode i h hi]
  · exact (opcode_decodeOp (opField w)).symm
  · rw [← decode_encode i hi, hij, decode_encode j hj]

end Sys2Proof

namespace Sys2Proof.Machine

/-! PROOFS. Every step keeps the invariant `Inv`, so every reachable state meets R79. -/

/-! ### R79 in a state that keeps what it speaks of -/

/-- What R79.1 speaks of reads alike in both states: KEYLEN, SCHED and the key. -/
structure KeptKey (s t : State) : Prop where
  ctrl : t.ctrl = s.ctrl
  sched : t.sched = s.sched
  key : ∀ nk ≤ 32, t.key nk = s.key nk

/-- What R79.2 speaks of, the flags apart, reads alike in both states. -/
structure KeptContext (s t : State) : Prop where
  cfg : t.cfg = s.cfg
  ctrl : t.ctrl = s.ctrl
  nonceLen : t.nonceLen = s.nonceLen
  aadLen : t.aadLen = s.aadLen
  sched : t.sched = s.sched
  hsub : t.hsub = s.hsub
  j0 : t.j0 = s.j0
  nonce : t.nonce = s.nonce

/-- No key is longer than the array KEY (R31, R90). -/
theorem keyBytes_le (k : BitVec 2) (nk : Nat) (h : keyBytes k = some nk) : nk ≤ 32 := by
  have := keyBytes_cases k nk h
  omega

/-- R79.1 goes over to a state that keeps the key and its schedule. -/
theorem KsInv.of_kept {s t : State} (h : KsInv s)
    (ht : t.status.ksValid = true → s.status.ksValid = true ∧ KeptKey s t) : KsInv t := by
  intro hv
  obtain ⟨hs, hctrl, hsched, hkey⟩ := ht hv
  obtain ⟨nk, hnk, himage⟩ := h hs
  exact ⟨nk, hctrl ▸ hnk, by rw [hsched, hkey nk (keyBytes_le _ nk hnk), himage]⟩

/-- R79.2 goes over to a state that keeps the context. -/
theorem CtxInv.of_kept {s t : State} (h : CtxInv s)
    (ht : t.status.ctxValid = true → s.status.ctxValid = true ∧ t.status.ksValid = true ∧ KeptContext s t) :
    CtxInv t := by
  intro hv
  obtain ⟨hs, hks, hcfg, hctrl, hnonceLen, haadLen, hsched, hhsub, hj0, hnonce⟩ := ht hv
  rw [hcfg, hctrl, hnonceLen, haadLen, hsched, hhsub, hj0, hnonce]
  exact ⟨hks, (h hs).2⟩

/-! ### Host writes -/

/-- A naturally aligned array write keeps every byte outside the array that it reaches. -/
theorem State.keptOutside_writeArr_located (s : State) (hs : s.memWf = true) (hc : s.cfg.wf = true) (n : Size) (a : Nat)
    (v : Word) (x : Arr) (hl : locate s.cfg n a = .arr x) :
    KeptOutside s (s.writeArr n a v x) (inArr x (x.size s.cfg)) :=
  (s.keptOutside_writeArr hs n a v x).mono fun b hb => inArr_of_locate s.cfg hc n a x hl b hb.1 hb.2

/-- An array write keeps every other array. -/
theorem KeptOutside.arrSlice_of_ne {s t : State} {x : Arr} (h : KeptOutside s t (inArr x (x.size s.cfg)))
    (hc : s.cfg.wf = true) (y : Arr) (hy : y ≠ x) (n : Nat) (hn : n ≤ y.size s.cfg) :
    t.arrSlice y 0 n = s.arrSlice y 0 n :=
  h.arrSlice y n fun b hb hx => hy (Arr.eq_of_inArr s.cfg hc y x b ⟨hb.1, hb.2.trans_le (by omega)⟩ hx)

section
variable (s : State) (n : Size) (a : Nat) (v : Word) (x : Arr)

@[simp] theorem State.writeArr_ctrl : (s.writeArr n a v x).ctrl = s.ctrl := by simp [State.writeArr]
@[simp] theorem State.writeArr_aadLen : (s.writeArr n a v x).aadLen = s.aadLen := by simp [State.writeArr]
@[simp] theorem State.writeArr_nonceLen : (s.writeArr n a v x).nonceLen = s.nonceLen := by simp [State.writeArr]

/-- Only a write to KEY invalidates the schedule (R78). -/
theorem State.writeArr_ksValid : (s.writeArr n a v x).status.ksValid = (s.status.ksValid && x != .key) := by
  cases x <;> simp [State.writeArr, State.invalidateArr]

/-- Writes to KEY, NONCE_BUF and AAD_BUF invalidate the context (R78). -/
theorem State.writeArr_ctxValid :
    (s.writeArr n a v x).status.ctxValid =
      (s.status.ctxValid && (x != .key && x != .nonceBuf && x != .aadBuf)) := by
  cases x <;> simp [State.writeArr, State.invalidateArr]

end

/-- R79.1 after an array write: KEY's invalidates, and a host cannot write SCHED (R48, R78). -/
theorem Inv.ksInv_writeArr {s : State} (h : Inv s) (n : Size) (a : Nat) (v : Word) (x : Arr)
    (hl : locate s.cfg n a = .arr x) (hx : x.readOnly = false) : KsInv (s.writeArr n a v x) := by
  have hkept := s.keptOutside_writeArr_located h.memOk h.cfgOk n a v x hl
  refine h.ks.of_kept fun hv => ?_
  simp only [State.writeArr_ksValid, Bool.and_eq_true, bne_iff_ne] at hv
  obtain ⟨hks, hkey⟩ := hv
  have hsched : x ≠ .sched := by rintro rfl; cases hx
  exact ⟨hks, s.writeArr_ctrl n a v x, hkept.arrSlice_of_ne h.cfgOk .sched hsched.symm 240 le_rfl,
    fun nk hnk => hkept.arrSlice_of_ne h.cfgOk .key hkey.symm nk hnk⟩

/-- R79.2 after an array write: those to KEY, NONCE_BUF and AAD_BUF invalidate, and a host cannot write SCHED, HSUB or J0
(R48, R78). -/
theorem Inv.ctxInv_writeArr {s : State} (h : Inv s) (n : Size) (a : Nat) (v : Word) (x : Arr)
    (hl : locate s.cfg n a = .arr x) (hx : x.readOnly = false) : CtxInv (s.writeArr n a v x) := by
  have hkept := s.keptOutside_writeArr_located h.memOk h.cfgOk n a v x hl
  refine h.ctx.of_kept fun hv => ?_
  simp only [State.writeArr_ctxValid, Bool.and_eq_true, bne_iff_ne] at hv
  obtain ⟨hctx, ⟨hkey, hnonce⟩, -⟩ := hv
  obtain ⟨hks, -, -, -, hlen, -⟩ := h.ctx hctx
  have hresult : ∀ y : Arr, y.readOnly = true → y ≠ x := by rintro y hy rfl; simp [hy] at hx
  refine ⟨hctx, ?_, s.writeArr_cfg n a v x, s.writeArr_ctrl n a v x, s.writeArr_nonceLen n a v x,
    s.writeArr_aadLen n a v x, hkept.arrSlice_of_ne h.cfgOk .sched (hresult _ rfl) 240 le_rfl,
    hkept.arrSlice_of_ne h.cfgOk .hsub (hresult _ rfl) 16 le_rfl,
    hkept.arrSlice_of_ne h.cfgOk .j0 (hresult _ rfl) 16 le_rfl, ?_⟩
  · simp [State.writeArr_ksValid, hks, hkey]
  · rw [State.nonce, State.nonce, State.writeArr_nonceLen]
    exact hkept.arrSlice_of_ne h.cfgOk .nonceBuf hnonce.symm _ hlen

/-- A register write keeps R79.1: one to CTRL invalidates (R78). -/
theorem Inv.ksInv_writeReg {s : State} (h : Inv s) (v : Word) (r : Reg) : KsInv (s.writeReg v r) := by
  cases r with
  | ctrl => exact nofun
  | _ => exact h.ks

/-- A register write keeps R79.2: those to CTRL, AAD_LEN and NONCE_LEN invalidate (R78). -/
theorem Inv.ctxInv_writeReg {s : State} (h : Inv s) (v : Word) (r : Reg) : CtxInv (s.writeReg v r) := by
  cases r with
  | ctrl | aadLen | nonceLen => exact nofun
  | _ => exact h.ctx


/-- The invariant does not speak of the interrupt registers, the events to come or the bus's answer. -/
theorem Inv.withUnread {s : State} (h : Inv s) (b : IntBits) (es : List Event) (r : Option BusResponse) :
    Inv { s with intStatus := b, events := es, response := r } :=
  ⟨h.cfgOk, h.memOk, h.ks, h.ctx, h.pending, h.waiting, h.authOk, h.noInternal⟩

/-- While the engine is idle nothing waits for the RNG. -/
theorem Inv.not_rngWait_of_idle {s : State} (h : Inv s) (hb : s.status.busy = false) : s.rngWait ≠ true := by
  intro hw
  have := (h.waiting hw).1
  simp [hb] at this

/-- A state whose STATUS lost validity flags at most meets the clauses on AUTH_OK, ERRCODE and PENDING_OP as before. -/
theorem Inv.of_flagsDropped {s t : State} (h : Inv s) (hcfg : t.cfg.wf = true) (hmem : t.memWf = true) (hks : KsInv t)
    (hctx : CtxInv t) (hd : FlagsDropped s.status t.status) (hop : t.pendingOp = s.pendingOp)
    (hwait : t.rngWait = true → t.status.busy = true ∧ t.pendingOp = 0x4 ∧ t.ctrl.keyLen ≠ 0b11 ∧
      t.msgLen.toNat ≤ t.cfg.maxMsg ∧ t.ctrl.ivGen = true ∧ t.rngPort = none) : Inv t := by
  refine ⟨hcfg, hmem, hks, hctx, ?_, hwait, ?_, ?_⟩ <;> rw [hd.rest]
  · rw [hop]; exact h.pending
  · exact h.authOk
  · exact h.noInternal

/-- A register write keeps the clause on the RNG handshake: while a command waits only the interrupt registers are
written (R76). -/
theorem Inv.writeReg {s : State} (h : Inv s) (v : Word) (r : Reg)
    (hb : s.status.busy = true → r.busyWritable = true) : Inv (s.writeReg v r) := by
  refine h.of_flagsDropped (by simpa using h.cfgOk) (by simpa using h.memOk) (h.ksInv_writeReg v r)
    (h.ctxInv_writeReg v r) (s.flagsDropped_writeReg v r) (by simp) fun hw => ?_
  have hwait := h.waiting (by simpa using hw)
  have hr := hb hwait.1
  cases r with
  | intStatus | intEnable => exact hwait
  | _ => cases hr

theorem Inv.writeArr {s : State} (h : Inv s) (n : Size) (a : Nat) (v : Word) (x : Arr)
    (hl : locate s.cfg n a = .arr x) (hx : x.readOnly = false) (hb : s.status.busy = false) :
    Inv (s.writeArr n a v x) := by
  have hkept := s.keptHidden_writeArr n a v x
  refine h.of_flagsDropped (by simpa using h.cfgOk) (s.memWf_writeArr h.memOk n a v x) (h.ksInv_writeArr n a v x hl hx)
    (h.ctxInv_writeArr n a v x hl hx) (s.flagsDropped_writeArr n a v x) hkept.pendingOp fun hw => ?_
  exact absurd (hkept.rngWait ▸ hw) (h.not_rngWait_of_idle hb)

/-- Every host write keeps the invariant. -/
theorem WriteEnds.inv {s t : State} {n : Size} {a : BitVec 16} {v : Word} (h : WriteEnds s n a v t) (hs : Inv s) :
    Inv t := by
  cases h with
  | error | droppedReg | droppedArr | nop => exact hs.withUnread _ _ _
  | issue _ hb ho =>
    exact ⟨hs.cfgOk, hs.memOk, hs.ks, hs.ctx, fun _ => ho, fun hw => absurd hw (hs.not_rngWait_of_idle hb), hs.authOk,
      hs.noInternal⟩
  | reg r _ _ hb => exact (hs.writeReg v r hb).withUnread _ _ _
  | arr x hl hx hb => exact (hs.writeArr n a.toNat v x hl hx hb).withUnread _ _ _

/-! ### Commands -/

/-- SCHED reads the image that was written to it (R95). -/
theorem State.sched_setSched (s : State) (hs : s.memWf = true) (nk : Nat) (hk : keyBytes s.ctrl.keyLen = some nk) :
    (s.setSched (expandKey (s.key nk) nk)).sched = schedImage (expandKey (s.key nk) nk) :=
  s.arrSlice_setArr_same hs .sched _ 240 (s.schedImage_expandKey_length nk hk).symm

/-- Writing OUT_BUF keeps SCHED. -/
theorem State.sched_setOut (s : State) (hs : s.memWf = true) (bs : Bytes) : (s.setArr .outBuf bs).sched = s.sched :=
  (keptOutside_setOut s hs bs).arrSlice .sched 240 fun a ha => by simp only [inArr, Arr.base] at ha ⊢; omega

/-- Taking the draw keeps SCHED. -/
theorem State.sched_takeDraw (s : State) (hs : s.memWf = true) (draw : Vector Byte 16) :
    (s.takeDraw draw).sched = s.sched :=
  (keptOutside_takeDraw s hs draw).arrSlice .sched 240 fun a ha => by simp only [inArr, Arr.base] at ha ⊢; omega

/-- Writing the context keeps SCHED. -/
theorem State.sched_setContext (s : State) (hs : s.memWf = true) (h j : Bytes) (hh : h.length = 16) (hj : j.length = 16) :
    (s.setContext h j).sched = s.sched :=
  (keptOutside_setContext s hs h j hh hj).arrSlice .sched 240 fun a ha => by simp only [inArr, Arr.base] at ha ⊢; omega

/-- Writing a ciphertext and its tag keeps SCHED. -/
theorem State.sched_gcmEncWrites (s : State) (hs : s.memWf = true) (e : Bytes → Bytes) (c : Bytes) :
    (s.gcmEncWrites c (s.computeTag e c)).sched = s.sched :=
  (keptOutside_gcmEncWrites s hs e c).arrSlice .sched 240 fun a ha => by simp only [inArr, Arr.base] at ha ⊢; omega

/-- A successful command either expands the key into SCHED and sets KS_VALID, or leaves both alone (R95, R127, R128). -/
theorem Success.sched {nk : Nat} {s u : State} {i : Instr} {n : Nat} (h : Success nk s i u n)
    (hk : keyBytes s.ctrl.keyLen = some nk) (hs : s.memWf = true) :
    (u.sched = schedImage (expandKey (s.key nk) nk) ∧ u.status.ksValid = true) ∨
    (i ≠ .gcmInit ∧ u.sched = s.sched ∧ u.status.ksValid = s.status.ksValid) := by
  have hsched := s.sched_setSched hs nk hk
  have hwf := s.memWf_setSched hs (expandKey (s.key nk) nk)
  have hout := fun bs => (State.sched_setOut _ hwf bs).trans hsched
  cases h with
  | keyexp => exact .inl ⟨hsched, rfl⟩
  | encBlock | decBlock | cbcEnc | cbcDec => exact .inl ⟨hout _, rfl⟩
  | cbcEncDraw draw =>
    exact .inl ⟨(State.sched_takeDraw _ (State.memWf_setArr _ hwf _ _) draw).trans (hout _), rfl⟩
  | gcmInit =>
    exact .inl ⟨(State.sched_setContext _ hwf _ _ (aesEncrypt_length ..) (deriveJ0_length ..)).trans hsched, rfl⟩
  | gcmEnc => exact .inr ⟨nofun, s.sched_gcmEncWrites hs _ _, rfl⟩
  | gcmDec => exact .inr ⟨nofun, s.sched_setOut hs _, rfl⟩


/-- HSUB and J0 read what GCM_INIT wrote there (R126). -/
theorem State.hsub_setContext (s : State) (hs : s.memWf = true) (h j : Bytes) (hh : h.length = 16) :
    (s.setContext h j).hsub = h :=
  (State.arrSlice_setArr_apart _ (s.memWf_setArr hs .hsub h) .j0 .hsub j 0 16 (.inl (by decide))).trans
    (s.arrSlice_setArr_same hs .hsub h 16 hh.symm)

theorem State.j0_setContext (s : State) (hs : s.memWf = true) (h j : Bytes) (hj : j.length = 16) :
    (s.setContext h j).j0 = j :=
  State.arrSlice_setArr_same _ (s.memWf_setArr hs .hsub h) .j0 j 16 hj.symm

/-- Only GCM_INIT's success sets CTX_VALID (R126). -/
theorem Success.ctxValid {nk : Nat} {s u : State} {i : Instr} {n : Nat} (h : Success nk s i u n) (hi : i ≠ .gcmInit) :
    u.status.ctxValid = s.status.ctxValid := by
  cases h with
  | gcmInit => exact absurd rfl hi
  | _ => rfl

section
variable {nk : Nat} {s u : State} {i : Instr} {n : Nat} (h : Success nk s i u n) (hk : keyBytes s.ctrl.keyLen = some nk)
  (hs : Inv s)
include h hk hs

/-- A successful command keeps the key that it reads (R31). -/
theorem Success.key (m : Nat) (hm : m ≤ 32) : u.key m = s.key m :=
  (h.keptOutside hk hs.memOk).arrSlice .key m fun a ha =>
    not_resultOffset_of_input s hs.cfgOk i .key (by simp) a ⟨ha.1, ha.2.trans_le (Nat.add_le_add_left hm _)⟩

/-- A successful command keeps a nonce that fits NONCE_BUF (R37). -/
theorem Success.nonce (hl : s.nonceLen.toNat ≤ s.cfg.maxNonce) : u.nonce = s.nonce := by
  rw [State.nonce, State.nonce, h.keptRegs.nonceLen]
  exact (h.keptOutside hk hs.memOk).arrSlice .nonceBuf _ fun a ha =>
    not_resultOffset_of_input s hs.cfgOk i .nonceBuf (by simp) a ⟨ha.1, ha.2.trans_le (Nat.add_le_add_left hl _)⟩

/-- R79.1 after a successful command: SCHED is the key's image, or nothing that R79.1 speaks of changed. -/
theorem Success.ksInv : KsInv u := by
  have hctrl := h.keptRegs.ctrl
  rcases h.sched hk hs.memOk with ⟨hsched, -⟩ | ⟨-, hsched, hv⟩
  · exact fun _ => ⟨nk, hctrl ▸ hk, by rw [hsched, h.key hk hs nk (keyBytes_le _ nk hk)]⟩
  · exact hs.ks.of_kept fun hu => ⟨hv ▸ hu, hctrl, hsched, h.key hk hs⟩

/-- While KS_VALID = 1 a successful command leaves SCHED as it is: the image of the key it expands stands there already. -/
theorem Success.sched_of_ksValid (hv : s.status.ksValid = true) : u.sched = s.sched ∧ u.status.ksValid = true := by
  rcases h.sched hk hs.memOk with ⟨hsched, hu⟩ | ⟨-, hsched, hu⟩
  · obtain ⟨nk', hk', himage⟩ := hs.ks hv
    cases hk.symm.trans hk'
    exact ⟨hsched.trans himage.symm, hu⟩
  · exact ⟨hsched, hu.trans hv⟩

/-- R79.2 after a successful command other than GCM_INIT: the context stands as before. -/
theorem Success.ctxInv_of_ne (hi : i ≠ .gcmInit) : CtxInv u := by
  refine hs.ctx.of_kept fun hu => ?_
  have hctx := (h.ctxValid hi).symm.trans hu
  obtain ⟨hks, -, -, -, hlen, -⟩ := hs.ctx hctx
  obtain ⟨hsched, hv⟩ := h.sched_of_ksValid hk hs hks
  have hkept := h.keptOutside hk hs.memOk
  exact ⟨hctx, hv, h.keptRegs.cfg, h.keptRegs.ctrl, h.keptRegs.nonceLen, h.keptRegs.aadLen, hsched,
    hkept.arrSlice .hsub 16 fun a ha => not_resultOffset_context s i hi a (.inl ha),
    hkept.arrSlice .j0 16 fun a ha => not_resultOffset_context s i hi a (.inr ha), h.nonce hk hs hlen⟩

end

/-- R79.2 after a successful GCM_INIT, which builds the context from the schedule it expands (R126). -/
theorem Success.ctxInv_gcmInit {nk : Nat} {s u : State} {n : Nat} (h : Success nk s .gcmInit u n)
    (hk : keyBytes s.ctrl.keyLen = some nk) (hs : Inv s) : CtxInv u := by
  have hnonce := h.nonce hk hs
  obtain ⟨hsched, hks⟩ := (h.sched hk hs.memOk).resolve_right fun hr => hr.1 rfl
  have hwf := s.memWf_setSched hs.memOk (expandKey (s.key nk) nk)
  cases h with
  | gcmInit h1 h2 h3 h4 h5 =>
    refine fun _ => ⟨hks, h1, h2, h3, h4, h5, nk, hk, ?_, ?_⟩
    · rw [State.hsub_setContext _ hwf _ _ (aesEncrypt_length ..), hsched, aesEncrypt_schedImage]
    · rw [State.hsub_setContext _ hwf _ _ (aesEncrypt_length ..), State.j0_setContext _ hwf _ _ (deriveJ0_length ..),
        hnonce h4]

theorem Success.ctxInv {nk : Nat} {s u : State} {i : Instr} {n : Nat} (h : Success nk s i u n)
    (hk : keyBytes s.ctrl.keyLen = some nk) (hs : Inv s) : CtxInv u := by
  by_cases hi : i = .gcmInit
  · subst hi; exact h.ctxInv_gcmInit hk hs
  · exact h.ctxInv_of_ne hk hs hi

/-- The completion step gives the invariant to a state that meets its clauses on R79 and waits for nothing (R70). -/
theorem inv_complete {u : State} (hcfg : u.cfg.wf = true) (hmem : u.memWf = true) (hks : KsInv u) (hctx : CtxInv u)
    (hw : u.rngWait ≠ true) (op : BitVec 4) (code : ErrCode) (hn : code ≠ .internal) (n : Nat) :
    Inv (u.complete op code n) :=
  ⟨hcfg, hmem, hks, hctx, nofun, fun h => absurd h hw, by simp, hn⟩

/-- A CBC_ENC that still waits has passed its checks (R116): a failed check would have ended it. -/
theorem cbcEnc_checks_of_busy {s t : State} (h : exec .cbcEnc s = .next t) (hb : t.status.busy = true) :
    s.ctrl.keyLen ≠ 0b11 ∧ s.msgLen.toNat ≤ s.cfg.maxMsg := by
  have hk : s.ctrl.keyLen ≠ 0b11 := by
    intro hk
    cases (exec_cbcEnc_keyLen s hk).symm.trans h
    cases hb
  refine ⟨hk, Nat.le_of_not_lt fun hl => ?_⟩
  cases (exec_cbcEnc_len s hk hl).symm.trans h
  cases hb

/-- The engine's turn on a command that waits for its draw leaves it waiting. -/
theorem Inv.exec_of_rngWait {s : State} (h : Inv s) (hw : s.rngWait = true) :
    exec (decodeOp s.pendingOp) s = .next s := by
  obtain ⟨-, hop, hk, hl, hg, hp⟩ := h.waiting hw
  rw [hop]
  refine (exec_cbcEnc_wait s hk hl hg hp).trans (congrArg _ ?_)
  rw [← hw]

/-- The pending command keeps the invariant, whichever way it ends. -/
theorem Inv.of_exec {s t : State} (h : Inv s) (hb : s.status.busy = true)
    (hx : exec (decodeOp s.pendingOp) s = .next t) : Inv t := by
  by_cases hw : s.rngWait = true
  · cases (h.exec_of_rngWait hw).symm.trans hx
    exact h
  generalize hi : decodeOp s.pendingOp = i at hx
  cases exec_ends i s t hx with
  | nop => exact h
  | failed _ code _ _ _ hn => exact inv_complete h.cfgOk h.memOk h.ks h.ctx hw _ code hn 0
  | failedInit code _ hn => exact inv_complete (u := s.dropContext) h.cfgOk h.memOk h.ks nofun hw _ code hn 0
  | waits hg hp =>
    obtain ⟨hk, hl⟩ := cbcEnc_checks_of_busy hx hb
    have hop : s.pendingOp = 0x4 := by rw [← (opcode_decodeOp s.pendingOp).1, hi]; rfl
    exact ⟨h.cfgOk, h.memOk, h.ks, h.ctx, h.pending, fun _ => ⟨hb, hop, hk, hl, hg, hp⟩, h.authOk, h.noInternal⟩
  | ok nk _ u n hk hu =>
    refine inv_complete ?_ (hu.memWf h.memOk) (hu.ksInv hk h) (hu.ctxInv hk h) ?_ _ .ok nofun n
    · rw [hu.keptRegs.cfg]; exact h.cfgOk
    · cases hu with
      | cbcEncDraw => exact nofun
      | _ => exact hw

/-! ### Steps and runs -/

/-- The state of R147 meets the invariant, whatever stands on the RNG port and in the model's own fields. -/
theorem inv_reset (cfg : Config) (hc : cfg.wf = true) (p : Option (Vector Byte 16)) (gen : Nat) (es : List Event) :
    Inv { State.reset with cfg := cfg, rngPort := p, resets := gen, events := es } :=
  ⟨hc, rfl, nofun, nofun, nofun, nofun, by simp [State.reset], nofun⟩

/-- Settles O7, by the ways a step can end: a host write (`WriteEnds.inv`), the pending command's turn (`Inv.of_exec`), or a
change of fields that no clause speaks of. -/
theorem stepKeepsTheInvariant : Obligations.StepKeepsTheInvariant := by
  intro s t hs h
  have hs' : ∀ es, Inv { s with events := es } := fun es => hs.withUnread _ es _
  cases step_ends s t h with
  | listen r es => exact hs.withUnread _ es r
  | write _ _ _ _ es _ _ _ hw => exact hw.inv (hs' es)
  | complete i es _ hi _ hb hx => subst hi; exact (hs' es).of_exec hb hx
  | rng => exact ⟨hs.cfgOk, hs.memOk, hs.ks, hs.ctx, hs.pending, nofun, hs.authOk, hs.noInternal⟩
  | reset es => exact inv_reset s.cfg hs.cfgOk s.rngPort (s.resets + 1) es

/-- Every state that a run reaches meets the invariant. -/
theorem Reachable.inv {s : State} (h : Reachable s) : Inv s := by
  induction h with
  | reset cfg hc => exact inv_reset cfg hc none 0 []
  | inputs es _ ih => exact ih.withUnread _ es _
  | step _ ht ih => exact stepKeepsTheInvariant _ _ ih ht

/-- Settles O8: the invariant holds at reset and every step keeps it (`Reachable.inv`), and R79 is two of its clauses. -/
theorem reachableStatesMeetR79 : Obligations.ReachableStatesMeetR79 :=
  fun _ h => ⟨h.inv.ks, h.inv.ctx⟩

end Sys2Proof.Machine

namespace Sys2Proof.Machine

/-! PROOFS. What legal reads return, idle and busy (R49, R77), and the register words bit by bit (R19 to R29, R131). -/

/-! ### Fields of a register word: a word is the OR of fields `x.setWidth 32 <<< p` that lie apart -/

/-- A field reads back at its own place. -/
@[simp] theorem extractLsb'_field {k : Nat} (x : BitVec k) (p : Nat) (h : p + k ≤ 32) :
    (x.setWidth 32 <<< p).extractLsb' p k = x := by
  ext i hi
  simp [hi, show p + i < 32 by omega]

/-- Where a field is not, its word reads 0. -/
@[simp] theorem extractLsb'_field_apart {k : Nat} (x : BitVec k) (p q m : Nat) (h : q + m ≤ p ∨ p + k ≤ q) :
    (x.setWidth 32 <<< p).extractLsb' q m = 0 := by
  ext i hi
  rcases h with h | h
  · simp [show q + i < p by omega]
  · simp [BitVec.getLsbD_of_ge x (q + i - p) (by omega)]

@[simp] theorem extractLsb'_setWidth_zero {k : Nat} (x : BitVec k) (h : k ≤ 32) : (x.setWidth 32).extractLsb' 0 k = x := by
  simpa using extractLsb'_field x 0 (by omega)

@[simp] theorem extractLsb'_setWidth_above {k : Nat} (x : BitVec k) (q m : Nat) (h : k ≤ q) :
    (x.setWidth 32).extractLsb' q m = 0 := by
  simpa using extractLsb'_field_apart x 0 q m (by omega)

/-- A flag is a field of one bit. -/
theorem flagBit_eq_field (b : Bool) (i : Nat) : flagBit b i = (BitVec.ofBool b).setWidth 32 <<< i := by
  rw [flagBit_eq]
  cases b
  · simp
  · rw [BitVec.twoPow_eq]; rfl

/-- A bit of a word is a field of one bit. -/
theorem getLsbD_eq_of_extractLsb' (v : Word) (i : Nat) (b : Bool) (h : v.extractLsb' i 1 = BitVec.ofBool b) :
    v.getLsbD i = b := by
  simpa using congrArg (BitVec.getLsbD · 0) h

/-- A number that fits `k` bits is a field of that width. -/
theorem ofNat_eq_setWidth (n k : Nat) (hn : n < 2 ^ k) : BitVec.ofNat 32 n = (BitVec.ofNat k n).setWidth 32 := by
  apply BitVec.eq_of_toNat_eq
  rw [BitVec.toNat_ofNat, BitVec.toNat_setWidth, BitVec.toNat_ofNat, Nat.mod_eq_of_lt hn]

/-! ### The register words -/

/-- CTRL's word (R22). -/
theorem Ctrl.toWord_fields (c : Ctrl) :
    c.toWord.extractLsb' 0 2 = c.keyLen ∧ c.toWord.getLsbD 2 = c.ivGen ∧ c.toWord.getLsbD 3 = c.tagCmp ∧
    c.toWord.extractLsb' 4 4 = 0 ∧ c.toWord.extractLsb' 8 5 = c.tagLen ∧ c.toWord.extractLsb' 13 19 = 0 := by
  refine ⟨?_, getLsbD_eq_of_extractLsb' _ _ _ ?_, getLsbD_eq_of_extractLsb' _ _ _ ?_, ?_, ?_, ?_⟩ <;>
    simp (disch := omega) [Ctrl.toWord, flagBit_eq_field, BitVec.extractLsb'_or]

/-- STATUS's word but for its code (R24). -/
theorem Status.toWord_fields (t : Status) :
    t.toWord.getLsbD 0 = t.busy ∧ t.toWord.getLsbD 1 = t.ksValid ∧ t.toWord.getLsbD 2 = t.ctxValid ∧
    t.toWord.getLsbD 3 = t.authOk ∧ t.toWord.extractLsb' 4 4 = 0 ∧ t.toWord.extractLsb' 12 4 = t.lastOp ∧
    t.toWord.extractLsb' 16 16 = 0 := by
  refine ⟨getLsbD_eq_of_extractLsb' _ _ _ ?_, getLsbD_eq_of_extractLsb' _ _ _ ?_, getLsbD_eq_of_extractLsb' _ _ _ ?_,
    getLsbD_eq_of_extractLsb' _ _ _ ?_, ?_, ?_, ?_⟩ <;>
    simp (disch := omega) [Status.toWord, flagBit_eq_field, BitVec.extractLsb'_or]

/-- STATUS has the outcome's code in bits 11:8 (R24, R131). -/
theorem Status.toWord_code (t : Status) : t.toWord.extractLsb' 8 4 = t.errCode.code := by
  simp (disch := omega) [Status.toWord, flagBit_eq_field, BitVec.extractLsb'_or]

/-- The word of INT_STATUS and of INT_ENABLE (R25, R26). -/
theorem IntBits.toWord_fields (b : IntBits) :
    b.toWord.getLsbD 0 = b.done ∧ b.toWord.getLsbD 1 = b.err ∧ b.toWord.getLsbD 2 = b.busyErr ∧
    b.toWord.extractLsb' 3 29 = 0 := by
  refine ⟨getLsbD_eq_of_extractLsb' _ _ _ ?_, getLsbD_eq_of_extractLsb' _ _ _ ?_, getLsbD_eq_of_extractLsb' _ _ _ ?_,
    ?_⟩ <;> simp (disch := omega) [IntBits.toWord, flagBit_eq_field, BitVec.extractLsb'_or]

/-- A register of one field at bit 0, with the reserved bits above it (R27 to R29). -/
theorem setWidth_fields {k : Nat} (x : BitVec k) (m : Nat) (h : k ≤ 32) :
    (x.setWidth 32).extractLsb' 0 k = x ∧ (x.setWidth 32).extractLsb' k m = 0 :=
  ⟨extractLsb'_setWidth_zero x h, extractLsb'_setWidth_above x k m le_rfl⟩

/-- A register of two halves (R21). -/
theorem halves_fields (x y : BitVec 16) :
    (x.setWidth 32 <<< 16 ||| y.setWidth 32).extractLsb' 0 16 = y ∧
    (x.setWidth 32 <<< 16 ||| y.setWidth 32).extractLsb' 16 16 = x := by
  simp (disch := omega) [BitVec.extractLsb'_or]

/-- PARAM0 has MAX_MSG in its low half and MAX_AAD in its high half (R21). -/
theorem param0_fields (s : State) (hc : s.cfg.wf = true) :
    ((regValue s .param0).extractLsb' 0 16).toNat = s.cfg.maxMsg ∧
    ((regValue s .param0).extractLsb' 16 16).toNat = s.cfg.maxAad := by
  simp only [Config.wf, Bool.and_eq_true, decide_eq_true_eq] at hc
  have hmsg : s.cfg.maxMsg < 2 ^ 16 := by omega
  have haad : s.cfg.maxAad < 2 ^ 16 := by omega
  rw [regValue, ofNat_eq_setWidth _ 16 hmsg, ofNat_eq_setWidth _ 16 haad]
  obtain ⟨hlow, hhigh⟩ := halves_fields (BitVec.ofNat 16 s.cfg.maxAad) (BitVec.ofNat 16 s.cfg.maxMsg)
  rw [hlow, hhigh, BitVec.toNat_ofNat, BitVec.toNat_ofNat, Nat.mod_eq_of_lt hmsg, Nat.mod_eq_of_lt haad]
  exact ⟨rfl, rfl⟩

/-- PARAM1 has MAX_NONCE in its low nine bits (R21). -/
theorem param1_fields (s : State) (hc : s.cfg.wf = true) :
    ((regValue s .param1).extractLsb' 0 9).toNat = s.cfg.maxNonce ∧ (regValue s .param1).extractLsb' 9 23 = 0 := by
  simp only [Config.wf, Bool.and_eq_true, decide_eq_true_eq] at hc
  have hnonce : s.cfg.maxNonce < 2 ^ 9 := by omega
  rw [regValue, ofNat_eq_setWidth _ 9 hnonce]
  obtain ⟨hlow, hhigh⟩ := setWidth_fields (BitVec.ofNat 9 s.cfg.maxNonce) 23 (by omega)
  exact ⟨by rw [hlow, BitVec.toNat_ofNat, Nat.mod_eq_of_lt hnonce], hhigh⟩

/-- Every register's word is that of its rule. -/
theorem registerWords (s : State) : RegisterWords s where
  id := rfl
  version := rfl
  param0 := param0_fields s
  param1 := param1_fields s
  ctrl := s.ctrl.toWord_fields
  cmd := rfl
  status := s.status.toWord_fields
  errCode := by
    rw [regValue, Status.toWord_code]
    cases s.status.errCode <;> decide
  intStatus := s.intStatus.toWord_fields
  intEnable := s.intEnable.toWord_fields
  msgLen := setWidth_fields s.msgLen 16 (by omega)
  aadLen := setWidth_fields s.aadLen 16 (by omega)
  nonceLen := setWidth_fields s.nonceLen 16 (by omega)
  tagInLen := setWidth_fields s.tagInLen 27 (by omega)
  outLen := setWidth_fields s.outLen 16 (by omega)

/-! ### Reads -/

/-- The bus lanes of bytes add up: the first byte below the others (R49, R53). -/
theorem leWord_cons (b : Byte) (bs : Bytes) : leWord (b :: bs) = b.setWidth 32 + leWord bs <<< 8 := by
  have hapart : b.setWidth 32 &&& leWord bs <<< 8 = 0 := by
    ext i hi
    by_cases h8 : i < 8
    · simp [h8]
    · simp [BitVec.getLsbD_of_ge b i (by omega)]
  rw [BitVec.add_eq_or_of_and_eq_zero _ _ hapart, leWord, BitVec.or_comm]

/-- The bytes read at an array's offset as a word (R49). -/
theorem leWord_readBytes_succ (s : State) (a n : Nat) :
    leWord (Memory.readBytes s.resets s.mem a (n + 1)) =
      (s.byteAt a).setWidth 32 + leWord (Memory.readBytes s.resets s.mem (a + 1) n) <<< 8 :=
  leWord_cons _ _

theorem leWord_readBytes_zero (s : State) (a : Nat) : leWord (Memory.readBytes s.resets s.mem a 0) = 0 := rfl

/-- While BUSY = 1 a read of an array gives 0 (R77). -/
theorem memRead_arr_busy (s : State) (n : Size) (a : BitVec 16) (x : Arr) (hl : locate s.cfg n a.toNat = .arr x)
    (hb : s.status.busy = true) : memRead s n a = .ok 0 := by
  rw [memRead_arr s n a x hl, if_pos hb]

/-- An idle read of an array gives its bytes (R49). -/
theorem memRead_arr_idle (s : State) (n : Size) (a : BitVec 16) (x : Arr) (hl : locate s.cfg n a.toNat = .arr x)
    (hb : s.status.busy = false) :
    memRead s n a = .ok (leWord (Memory.readBytes s.resets s.mem a.toNat (Size.bytes n))) := by
  rw [memRead_arr s n a x hl, if_neg (by simp [hb])]

/-- Settles O31, by `registerWords`, the equations of `memRead`, and the bus lanes of one, two and four bytes. -/
theorem readsReturnTheStoredValue : Obligations.ReadsReturnTheStoredValue := by
  intro s a
  refine ⟨registerWords s, fun r hl => ?_, fun n x hl hb => memRead_arr_busy s n a x hl hb, fun x hl hb => ?_,
    fun x hl hb => ?_, fun x hl hb => ?_⟩
  · rw [memRead_reg s .word a r hl]
    cases r with
    | cmd => simp [regValue]
    | _ => simp [Reg.busyReadable]
  all_goals rw [memRead_arr_idle s _ a x hl hb, Size.bytes]
  · simp [leWord_readBytes_succ, leWord_readBytes_zero]
  · simp [leWord_readBytes_succ, leWord_readBytes_zero]
  · simp [leWord_readBytes_succ, leWord_readBytes_zero, BitVec.shiftLeft_add_distrib, ← BitVec.shiftLeft_add,
      BitVec.add_assoc]

/-- The registers that a read sees while BUSY = 1 are functions of STATUS, the interrupt registers and the parameters
(R77). -/
theorem regValue_busyReadable {s s' : State} (hst : s'.status = s.status) (hcfg : s'.cfg = s.cfg)
    (his : s'.intStatus = s.intStatus) (hie : s'.intEnable = s.intEnable) (r : Reg) (hr : r.busyReadable = true) :
    regValue s r = regValue s' r := by
  cases r with
  | id | version | cmd => rfl
  | param0 | param1 => rw [regValue, regValue, hcfg]
  | status => rw [regValue, regValue, hst]
  | intStatus => rw [regValue, regValue, his]
  | intEnable => rw [regValue, regValue, hie]
  | ctrl | msgLen | aadLen | nonceLen | tagInLen | outLen => cases hr

/-- Settles O34: a busy read is a bus error by its place alone, 0 in an array, and in a register 0 or a value of what the two
states share (`regValue_busyReadable`). -/
theorem busyReadsRevealNothing : Obligations.BusyReadsRevealNothing := by
  intro s s' n a hb hst hcfg his hie
  have hb' : s'.status.busy = true := hst ▸ hb
  cases hl : locate s.cfg n a.toNat with
  | reserved => rw [memRead_reserved s n a hl, memRead_reserved s' n a (hcfg ▸ hl)]
  | arr x => rw [memRead_arr_busy s n a x hl hb, memRead_arr_busy s' n a x (hcfg ▸ hl) hb']
  | reg r =>
    rw [memRead_reg s n a r hl, memRead_reg s' n a r (hcfg ▸ hl), hb, hb']
    cases hr : r.busyReadable with
    | false => simp
    | true => simp [regValue_busyReadable hst hcfg his hie r hr]

end Sys2Proof.Machine

namespace Sys2Proof.Machine

/-! PROOFS. The command lifecycle: the engine's turn, the issue of a command, failures (R69 to R75), and what host writes do
while a command runs and to the validity flags (R76, R78). -/

/-! ### The engine's turn -/

theorem engineTurn_busy (s : State) (hb : s.status.busy = true) : engineTurn s = exec (decodeOp s.pendingOp) s := by
  rw [engineTurn, if_pos hb]

theorem engineTurn_idle (s : State) (hb : s.status.busy = false) : engineTurn s = .next s := by
  rw [engineTurn, if_neg (by simp [hb])]

/-- The engine has its turn when its event comes, and when none is left (R70, log 1). -/
theorem step_of_engine (s : State) (es : List Event) (he : s.events = .engine :: es ∨ s.events = [] ∧ es = []) :
    step s = engineTurn { s with events := es } := by
  rcases he with he | ⟨he, rfl⟩
  · exact step_of_events s _ es he
  · have hs : { s with events := [] } = s := by rw [← he]
    rw [hs, step, takeStep, he]

/-- Settles O12: a well-formed command is what its opcode decodes to (`decodeOp_opcode`). -/
theorem engineStepRunsThePendingCommand : Obligations.EngineStepRunsThePendingCommand := by
  intro s es he
  refine ⟨fun hb i hi hop => ?_, fun hb => ?_⟩
  · rw [step_of_engine s es he, engineTurn_busy { s with events := es } hb, ← hop, decodeOp_opcode i hi]
  · rw [step_of_engine s es he, engineTurn_idle { s with events := es } hb]

/-! ### Host writes while a command runs -/

/-- A busy write of a register that it does not reach is dropped (R76). -/
theorem hostWrite_reg_dropped (s : State) (n : Size) (a : BitVec 16) (v : Word) (r : Reg)
    (hl : locate s.cfg n a.toNat = .reg r) (hr : r.readOnly = false) (hw : r.busyWritable = false)
    (hb : s.status.busy = true) : hostWrite s n a v = .next (s.noteBusyErr.respond .okay) := by
  simp [hostWrite, hl, hr, hw, hb]

/-- A busy write of an array is dropped (R76). -/
theorem hostWrite_arr_dropped (s : State) (n : Size) (a : BitVec 16) (v : Word) (x : Arr)
    (hl : locate s.cfg n a.toNat = .arr x) (hx : x.readOnly = false) (hb : s.status.busy = true) :
    hostWrite s n a v = .next (s.noteBusyErr.respond .okay) := by
  simp [hostWrite, hl, hx, hb]

/-- What a busy write reaches a host may write, and it is not CMD (R48, R76). -/
theorem Reg.writable_of_busyWritable (r : Reg) (h : r.busyWritable = true) : r.readOnly = false ∧ r ≠ .cmd := by
  cases r with
  | intStatus | intEnable => exact ⟨rfl, nofun⟩
  | _ => cases h

/-- A write of INT_STATUS or INT_ENABLE is performed, busy or not (R76). -/
theorem hostWrite_reg_busyWritable (s : State) (n : Size) (a : BitVec 16) (v : Word) (r : Reg)
    (hl : locate s.cfg n a.toNat = .reg r) (hw : r.busyWritable = true) :
    hostWrite s n a v = .next ((s.writeReg v r).respond .okay) := by
  simp [hostWrite, hl, Reg.writable_of_busyWritable r hw, hw]

/-- Settles O39: the writes that reach a register are `State.writeReg`, and all others are dropped. -/
theorem busyWritesAreDropped : Obligations.BusyWritesAreDropped := by
  intro s n a v es he hb
  let u : State := { s with events := es }
  have hstep : step s = hostWrite u n a v := step_of_events s _ es he
  refine ⟨fun hl => ⟨s.intStatus.clear v, ?_, s.intStatus.toWord_clear v, rfl, rfl, rfl⟩,
    fun hl => ⟨IntBits.ofWord v, ?_, IntBits.toWord_ofWord v, rfl, rfl, rfl⟩, ?_⟩
  · exact hstep.trans (hostWrite_reg_busyWritable u n a v .intStatus hl rfl)
  · exact hstep.trans (hostWrite_reg_busyWritable u n a v .intEnable hl rfl)
  · rintro (⟨r, hr, hl⟩ | ⟨x, hx, hl⟩)
    · have hdrop : r.readOnly = false ∧ r.busyWritable = false := by clear hl; revert r; decide
      exact hstep.trans (hostWrite_reg_dropped u n a v r hl hdrop.1 hdrop.2 hb)
    · have hdrop : x.readOnly = false := by clear hl; revert x; decide
      exact hstep.trans (hostWrite_arr_dropped u n a v x hl hdrop hb)

/-! ### The issue of a command -/

/-- An idle write of CMD issues the command word (R69). -/
theorem hostWrite_cmd_idle (s : State) (v : Word) (hb : s.status.busy = false) :
    hostWrite s .word cmdOffset v = issue (s.respond .okay) v := by
  have hl : locate s.cfg .word cmdOffset.toNat = .reg .cmd := rfl
  simp [hostWrite, hl, hb, Reg.readOnly]

section
variable (s : State) (es : List Event) (v : Word) (he : s.events = .write .word 0x0014 v :: es)
include he

/-- An idle CMD write with OP = 0 is a NOP, which runs at once (R69, R74). -/
theorem step_cmdWrite_nop (hb : s.status.busy = false) (hop : opField v = 0x0) :
    step s = .next { s with events := es, response := some .okay } :=
  (step_of_events s _ es he).trans ((hostWrite_cmd_idle { s with events := es } v hb).trans (issue_nop _ v hop))

/-- An idle CMD write with OP not 0 makes the command pending (R69). -/
theorem step_cmdWrite_issue (hb : s.status.busy = false) (hop : opField v ≠ 0x0) :
    step s = .next { s with
      events := es
      response := some .okay
      pendingOp := opField v
      status := { s.status with busy := true } } :=
  (step_of_events s _ es he).trans ((hostWrite_cmd_idle { s with events := es } v hb).trans (issue_pending _ v hop))

/-- A busy CMD write is dropped (R69, R76). -/
theorem step_cmdWrite_dropped (hb : s.status.busy = true) :
    step s = .next { s with
      events := es
      response := some .okay
      intStatus := { s.intStatus with busyErr := true } } :=
  (step_of_events s _ es he).trans (hostWrite_reg_dropped { s with events := es } .word 0x0014 v .cmd rfl rfl rfl hb)

end

/-- Settles O13, by the three ends of a CMD write. -/
theorem cmdWriteIssuesTheCommand : Obligations.CmdWriteIssuesTheCommand :=
  fun s es v he => ⟨step_cmdWrite_nop s es v he, step_cmdWrite_issue s es v he, step_cmdWrite_dropped s es v he⟩

/-- Settles O14: a NOP written while idle answers the state itself, and one written while busy is dropped. -/
theorem nopChangesNothing : Obligations.NopChangesNothing := by
  refine ⟨exec_nop, fun s es v he hop => ?_⟩
  cases hb : s.status.busy with
  | false => exact ⟨s, step_cmdWrite_nop s es v he hb hop, fun _ => rfl, nofun⟩
  | true =>
    exact ⟨{ s with intStatus := { s.intStatus with busyErr := true } }, step_cmdWrite_dropped s es v he hb, nofun,
      fun _ => rfl⟩

/-! ### Completion and failure -/

/-- What the completion step records (R70). -/
theorem completed_complete {s u : State} (hu : u.intStatus = s.intStatus) (op : BitVec 4) (code : ErrCode) (n : Nat)
    (hn : n < 2 ^ 16) : Completed op code n s (u.complete op code n) where
  errCode := rfl
  lastOp := rfl
  authOk := by simp
  busy := rfl
  outLen := by rw [State.complete_outLen, BitVec.toNat_ofNat, Nat.mod_eq_of_lt hn]
  done := rfl
  err := by simp [hu]

/-- A failed command records its code and writes nothing else (R71). -/
theorem failed_failCommand (s : State) (op : BitVec 4) (code : ErrCode) : Failed op code s (s.failCommand op code) where
  completed := completed_complete rfl op code 0 (by decide)
  regs := (KeptRegs.refl s).complete op code 0
  rng := ⟨rfl, rfl⟩
  ksValid := rfl
  tagInLen := rfl
  mem := rfl

/-- So does a failed GCM_INIT, which drops the context before (R126). -/
theorem failed_failInit (s : State) (code : ErrCode) : Failed 0x6 code s (s.dropContext.failCommand 0x6 code) where
  completed := completed_complete (s := s) (u := s.dropContext) rfl 0x6 code 0 (by decide)
  regs := by constructor <;> rfl
  rng := ⟨rfl, rfl⟩
  ksValid := rfl
  tagInLen := rfl
  mem := rfl

/-- A command that completes with an error code has failed with it; GCM_INIT alone drops the context (R71). -/
theorem Ends.failed_of_errCode {s t : State} {i : Instr} (h : Ends s i t) (hi : i ≠ .nop) (hbs : s.status.busy = true)
    (hb : t.status.busy = false) (hc : t.status.errCode ≠ .ok) :
    Failed (opcode i) t.status.errCode s t ∧ (i = .gcmInit → t.status.ctxValid = false) ∧
      (i ≠ .gcmInit → t.status.ctxValid = s.status.ctxValid) := by
  cases h with
  | nop => exact absurd rfl hi
  | failed _ code _ hg => exact ⟨failed_failCommand s _ code, fun h => absurd h hg, fun _ => rfl⟩
  | failedInit code => exact ⟨failed_failInit s code, fun _ => rfl, fun h => absurd rfl h⟩
  | waits => exact absurd (hbs.symm.trans hb) nofun
  | ok => exact absurd rfl hc

/-- Settles O28: the command has failed (`Ends.failed_of_errCode`), and a failure writes no result. -/
theorem failedCommandsWriteNoResult : Obligations.FailedCommandsWriteNoResult := by
  intro s t i hbs hi h hb hc
  obtain ⟨hf, hinit, hother⟩ := (exec_ends i s t h).failed_of_errCode hi hbs hb hc
  refine ⟨hf.mem, hf.ksValid, hf.tagInLen, hf.rng.rngPort, BitVec.eq_of_toNat_eq hf.completed.outLen, ?_,
    hf.completed.err.2 (.inr hc), hf.completed.done, hinit, hother⟩
  exact Bool.eq_false_iff.2 fun ha => hc (hf.completed.authOk.1 ha).2

/-! ### Reserved opcodes -/

/-- The opcodes from 0x9 on decode to the reserved commands (R64). -/
theorem decodeOp_reserved (op : BitVec 4) (h : 0x9 ≤ op.toNat) :
    decodeOp op = .reserved9 ∨ decodeOp op = .reservedAB op ∨ decodeOp op = .reservedCF op := by
  revert op; decide

/-- The well-formed reserved commands have the opcodes from 0x9 on (R64, R75). -/
theorem opcode_reservedAB_ge (op : BitVec 4) (h : (Instr.reservedAB op).wellFormed = true) : 0x9 ≤ op.toNat := by
  revert op; decide

theorem opcode_reservedCF_ge (op : BitVec 4) (h : (Instr.reservedCF op).wellFormed = true) : 0x9 ≤ op.toNat := by
  revert op; decide

/-- Settles O15: each reserved command is a failure with ERR_BADOP, and its opcode, not being 0, is issued. -/
theorem reservedOpcodesFailWithBadOp : Obligations.ReservedOpcodesFailWithBadOp := by
  refine ⟨fun s i hi => ?_, fun s es v he hb hop => ⟨step_cmdWrite_issue s es v he hb ?_, decodeOp_reserved _ hop⟩⟩
  · rcases hi with rfl | ⟨op, rfl, hwf⟩ | ⟨op, rfl, hwf⟩
    · exact ⟨by decide, _, exec_reserved9 s, failed_failCommand s _ _, rfl⟩
    · exact ⟨opcode_reservedAB_ge op hwf, _, exec_reservedAB s op, failed_failCommand s _ _, rfl⟩
    · exact ⟨opcode_reservedCF_ge op hwf, _, exec_reservedCF s op, failed_failCommand s _ _, rfl⟩
  · intro h0
    rw [show v.extractLsb' 0 4 = 0x0 from h0] at hop
    cases hop

/-! ### Invalidation by idle host writes -/

/-- Settles O42: the idle write is `State.writeReg` or `State.writeArr`, whose invalidation is that of the place written. -/
theorem writesInvalidate : Obligations.WritesInvalidate := by
  intro s n a v es he hb l hl
  let u : State := { s with events := es }
  have hstep : step s = hostWrite u n a v := step_of_events s _ es he
  have hreg : ∀ r : Reg, l = .reg r → r.readOnly = false → r ≠ .cmd →
      ∃ t, step s = .next t ∧ t.status = (u.writeReg v r).status := fun r h hr hc =>
    ⟨_, hstep.trans (hostWrite_reg_idle u n a v r (hl.symm.trans h) hr hc hb), rfl⟩
  have harr : ∀ x : Arr, l = .arr x → x.readOnly = false →
      ∃ t, step s = .next t ∧ t.status = (u.writeArr n a.toNat v x).status := fun x h hx =>
    ⟨_, hstep.trans (hostWrite_arr_idle u n a v x (hl.symm.trans h) hx hb), rfl⟩
  simp only [List.mem_cons, List.not_mem_nil, or_false]
  refine ⟨?_, ?_, ?_⟩
  · rintro (h | h)
    · exact hreg .ctrl h rfl nofun
    · exact harr .key h rfl
  · rintro (h | h | h | h)
    · exact harr .nonceBuf h rfl
    · exact hreg .nonceLen h rfl nofun
    · exact harr .aadBuf h rfl
    · exact hreg .aadLen h rfl nofun
  · rintro (h | h | h | h | h | h | h)
    · exact harr .iv h rfl
    · exact harr .tag h rfl
    · exact hreg .msgLen h rfl nofun
    · exact hreg .tagInLen h rfl nofun
    · exact harr .inBuf h rfl
    · exact hreg .intStatus h rfl nofun
    · exact hreg .intEnable h rfl nofun

end Sys2Proof.Machine

namespace Sys2Proof

/-! PROOFS. The State of the block cipher, read byte by byte. -/

@[simp] theorem AesState.get_ofFn (f : Fin 4 → Fin 4 → Byte) (row col : Fin 4) :
    (AesState.ofFn f).get row col = f row col := by
  fin_cases row <;> fin_cases col <;> rfl

/-- A State is its sixteen bytes. -/
theorem AesState.ext_get (s t : AesState) (h : ∀ row col, s.get row col = t.get row col) : s = t := by
  have hof : ∀ u : AesState, AesState.ofFn u.get = u := fun _ => rfl
  rw [← hof s, ← hof t]
  exact congrArg _ (funext₂ h)

end Sys2Proof

namespace Sys2Proof.Machine

/-! PROOFS. The fields GF(2^8) and GF(2^128), the S-box tables, and the inverses of the round transformations. -/

/-! ### Maps that distribute over XOR

Such a map is fixed by its values at the words with a single bit set, so an identity between two of them is checked there. -/

/-- The map distributes over XOR. -/
def XorLinear {v w : Nat} (f : BitVec v → BitVec w) : Prop := ∀ a b, f (a ^^^ b) = f a ^^^ f b

/-- The lowest `n` bits of a word. -/
def lowBits {w : Nat} (n : Nat) (x : BitVec w) : BitVec w := (x.setWidth n).setWidth w

theorem getLsbD_lowBits {w : Nat} (n : Nat) (x : BitVec w) (j : Nat) :
    (lowBits n x).getLsbD j = (decide (j < n) && x.getLsbD j) := by
  rw [lowBits, BitVec.getLsbD_setWidth, BitVec.getLsbD_setWidth]
  by_cases hj : j < w
  · simp [hj]
  · simp [BitVec.getLsbD_of_ge x j (by omega)]

@[simp] theorem lowBits_zero {w : Nat} (x : BitVec w) : lowBits 0 x = 0#w :=
  BitVec.eq_of_getLsbD_eq fun j _ => by simp [getLsbD_lowBits]

theorem lowBits_self {w : Nat} (x : BitVec w) : lowBits w x = x := by
  rw [lowBits, BitVec.setWidth_eq, BitVec.setWidth_eq]

/-- One more low bit is one more power of two where the bit is set. -/
theorem lowBits_succ {w : Nat} (n : Nat) (x : BitVec w) :
    lowBits (n + 1) x = lowBits n x ^^^ (if x.getLsbD n then BitVec.twoPow w n else 0#w) := by
  refine BitVec.eq_of_getLsbD_eq fun j hj => ?_
  have hbit : (if x.getLsbD n then BitVec.twoPow w n else 0#w).getLsbD j = (x.getLsbD n && decide (n = j)) := by
    split
    next hx => rw [hx, Bool.true_and, BitVec.getLsbD_twoPow, decide_eq_true (BitVec.lt_of_getLsbD hx), Bool.true_and]
    next hx => rw [Bool.eq_false_of_not_eq_true hx, Bool.false_and, BitVec.getLsbD_zero]
  rw [BitVec.getLsbD_xor, getLsbD_lowBits, getLsbD_lowBits, hbit]
  by_cases h : n = j
  · simp [h]
  · simp [h, show j < n + 1 ↔ j < n by omega]

namespace XorLinear

variable {u v w : Nat} {f g : BitVec v → BitVec w}

theorem map_zero (hf : XorLinear f) : f 0#v = 0#w := by
  have h := hf 0#v 0#v
  rwa [BitVec.xor_self, BitVec.xor_self] at h

theorem identity : XorLinear fun a : BitVec v => a := fun _ _ => rfl

theorem zero : XorLinear fun _ : BitVec v => 0#w := fun _ _ => BitVec.xor_self.symm

theorem comp {h : BitVec u → BitVec v} (hf : XorLinear f) (hh : XorLinear h) : XorLinear fun a => f (h a) := fun a b =>
  (congrArg f (hh a b)).trans (hf _ _)

theorem xor (hf : XorLinear f) (hg : XorLinear g) : XorLinear fun a => f a ^^^ g a := fun a b => by
  simp only [hf a b, hg a b]
  ac_rfl

/-- Two such maps that agree on the words with a single bit set are equal. -/
theorem ext (hf : XorLinear f) (hg : XorLinear g) (h : ∀ i < v, f (BitVec.twoPow v i) = g (BitVec.twoPow v i))
    (x : BitVec v) : f x = g x := by
  have hlow : ∀ n ≤ v, f (lowBits n x) = g (lowBits n x) := by
    intro n hn
    induction n with
    | zero => rw [lowBits_zero, hf.map_zero, hg.map_zero]
    | succ n ih =>
      rw [lowBits_succ, hf, hg, ih (by omega)]
      split
      · rw [h n hn]
      · rw [hf.map_zero, hg.map_zero]
  rw [← lowBits_self x]
  exact hlow v (Nat.le_refl v)

end XorLinear

/-! ### GF(2^8) -/

/-- A word taken where exactly one of two bits is set is the XOR of the words taken where each is set. -/
theorem ite_xor {w : Nat} (p q : Bool) (c : BitVec w) :
    (if p ^^ q then c else 0#w) = (if p then c else 0#w) ^^^ (if q then c else 0#w) := by
  cases p <;> cases q <;> simp

/-- The accumulator's step in the loops of R82 and R88. -/
theorem ite_xor_self {w : Nat} (p : Prop) [Decidable p] (z c : BitVec w) :
    (if p then z ^^^ c else z) = z ^^^ (if p then c else 0#w) := by
  split
  · rfl
  · rw [BitVec.xor_zero]

theorem xtime_xor (a b : Byte) : xtime (a ^^^ b) = xtime a ^^^ xtime b := by
  unfold xtime
  rw [BitVec.shiftLeft_xor_distrib, BitVec.getLsbD_xor, show (0x00 : Byte) = 0#8 from rfl, ite_xor]
  ac_rfl

/-- The loop of R82 is linear in its accumulator and its first factor together. -/
theorem gfMul8Loop_xor_left (n : Nat) (p q a a' b : Byte) :
    gfMul8Loop n (p ^^^ q) (a ^^^ a') b = gfMul8Loop n p a b ^^^ gfMul8Loop n q a' b := by
  induction n generalizing p q a a' b with
  | zero => rfl
  | succ n ih =>
    simp only [gfMul8Loop, xtime_xor]
    rw [← ih]
    congr 1
    split
    · ac_rfl
    · rfl

/-- The loop of R82 is linear in its accumulator and its second factor together. -/
theorem gfMul8Loop_xor_right (n : Nat) (p q a b b' : Byte) :
    gfMul8Loop n (p ^^^ q) a (b ^^^ b') = gfMul8Loop n p a b ^^^ gfMul8Loop n q a b' := by
  induction n generalizing p q a b b' with
  | zero => rfl
  | succ n ih =>
    simp only [gfMul8Loop, BitVec.ushiftRight_xor_distrib, BitVec.getLsbD_xor, ite_xor_self, ite_xor]
    rw [← ih]
    congr 1
    ac_rfl

theorem gfMul8_linear_left (b : Byte) : XorLinear fun a => gfMul8 a b := fun a a' =>
  gfMul8Loop_xor_left 8 0 0 a a' b

theorem gfMul8_linear_right (a : Byte) : XorLinear fun b => gfMul8 a b := fun b b' =>
  gfMul8Loop_xor_right 8 0 0 a b b'

/-- `GFMul8` is symmetric at the powers of two, hence everywhere. -/
theorem gfMul8_comm (a b : Byte) : gfMul8 a b = gfMul8 b a := by
  have hbasis : ∀ i < 8, ∀ j < 8, gfMul8 (BitVec.twoPow 8 i) (BitVec.twoPow 8 j) =
      gfMul8 (BitVec.twoPow 8 j) (BitVec.twoPow 8 i) := by decide +kernel
  have hleft : ∀ i < 8, gfMul8 (BitVec.twoPow 8 i) b = gfMul8 b (BitVec.twoPow 8 i) := fun i hi =>
    (gfMul8_linear_right _).ext (gfMul8_linear_left _) (hbasis i hi) b
  exact (gfMul8_linear_left b).ext (gfMul8_linear_right b) hleft a

theorem gfMul8_one (a : Byte) : gfMul8 a 1 = a :=
  (gfMul8_linear_left 1).ext XorLinear.identity (by decide) a

/-- Settles O46: both factors of `GFMul8` are XOR-linear, and such maps agree when they agree at the powers of two. -/
theorem gfMul8IsBilinear : Obligations.GfMul8IsBilinear := fun a b c =>
  ⟨gfMul8_comm a b, gfMul8_linear_right a b c, (gfMul8_linear_right a).map_zero, gfMul8_one a⟩

/-! ### The S-box tables -/

/-- The affine map of R84: bit i of the result is the XOR of the bits i, i+4, i+5, i+6, i+7 of `g` and bit i of 0x63. -/
def sboxAffine (g : Byte) : Byte :=
  g ^^^ g.rotateLeft 4 ^^^ g.rotateLeft 3 ^^^ g.rotateLeft 2 ^^^ g.rotateLeft 1 ^^^ 0x63

/-- The inverse of the affine map of R84. -/
def sboxAffineInv (y : Byte) : Byte := y.rotateLeft 1 ^^^ y.rotateLeft 3 ^^^ y.rotateLeft 6 ^^^ 0x05

theorem getLsbD_sboxAffine (g : Byte) (i : Nat) (hi : i < 8) : (sboxAffine g).getLsbD i =
    (g.getLsbD i ^^ g.getLsbD ((i + 4) % 8) ^^ g.getLsbD ((i + 5) % 8) ^^ g.getLsbD ((i + 6) % 8) ^^
      g.getLsbD ((i + 7) % 8) ^^ (0x63#8).getLsbD i) := by
  unfold sboxAffine
  interval_cases i <;> simp

theorem sboxAffine_sboxAffineInv (y : Byte) : sboxAffine (sboxAffineInv y) = y := by
  revert y; decide +kernel

/-- For a ≠ 0 the byte whose affine image the table of R85 holds at `a` is the inverse of `a`. -/
theorem gfMul8_sboxAffineInv_sbox (a : Byte) (h : a ≠ 0) : gfMul8 a (sboxAffineInv (sbox a)) = 1 := by
  revert a; decide +kernel

theorem invSbox_sbox (a : Byte) : invSbox (sbox a) = a := by
  revert a; decide +kernel

/-- `InvS` undoes `S` on a finite type, so `S` is onto and undoes `InvS`. -/
theorem sbox_invSbox (a : Byte) : sbox (invSbox a) = a := by
  have hinj : Function.Injective sbox := Function.LeftInverse.injective invSbox_sbox
  obtain ⟨c, rfl⟩ := Finite.surjective_of_injective hinj a
  rw [invSbox_sbox]

/-- Settles O45: the witness is the byte whose affine image is S(a), the inverse of a by a check of the table of R85. -/
theorem sboxIsTheAffineMapOfTheInverse : Obligations.SboxIsTheAffineMapOfTheInverse := by
  intro a
  refine ⟨invSbox_sbox a, sbox_invSbox a, sboxAffineInv (sbox a), ?_, gfMul8_sboxAffineInv_sbox a, fun i hi => ?_⟩
  · rintro rfl
    decide
  · rw [← getLsbD_sboxAffine _ i hi, sboxAffine_sboxAffineInv]

/-! ### GF(2^128) -/

/-- Without a set bit below `i`, the loop of R88 adds nothing. -/
theorem gfMul128Loop_of_clear (x : BitVec 128) (i : Nat) (z v : BitVec 128) (h : ∀ j < i, x.getLsbD j = false) :
    gfMul128Loop x i z v = z := by
  induction i generalizing z v with
  | zero => rfl
  | succ i ih =>
    rw [gfMul128Loop, h i i.lt_succ_self]
    exact ih _ _ fun j hj => h j (Nat.lt_succ_of_lt hj)

/-- The loop of R88 with V = 0 adds nothing: V stays 0. -/
theorem gfMul128Loop_zero (x : BitVec 128) (i : Nat) (z : BitVec 128) : gfMul128Loop x i z 0#128 = z := by
  induction i generalizing z with
  | zero => rfl
  | succ i ih => simpa [gfMul128Loop] using ih z

/-- One shift of V where it has a single bit, not the last. -/
theorem twoPow_succ_ushiftRight {w : Nat} (i : Nat) (hi : i + 1 < w) :
    BitVec.twoPow w (i + 1) >>> 1 = BitVec.twoPow w i := by
  refine BitVec.eq_of_getLsbD_eq fun j _ => ?_
  rw [BitVec.getLsbD_ushiftRight, BitVec.getLsbD_twoPow, BitVec.getLsbD_twoPow, Bool.eq_iff_iff]
  simp only [Bool.and_eq_true, decide_eq_true_eq]
  omega

/-- With V at the bit the loop of R88 looks at, it adds the bits of x that are left: V goes down with the loop. -/
theorem gfMul128Loop_twoPow (x : BitVec 128) (i : Nat) (hi : i < 128) (z : BitVec 128) :
    gfMul128Loop x (i + 1) z (BitVec.twoPow 128 i) = z ^^^ lowBits (i + 1) x := by
  induction i generalizing z with
  | zero => rw [lowBits_succ, lowBits_zero, BitVec.zero_xor, gfMul128Loop, gfMul128Loop, ite_xor_self]
  | succ i ih =>
    have hbit : (BitVec.twoPow 128 (i + 1)).getLsbD 0 = false := by simp
    rw [gfMul128Loop, hbit, if_neg Bool.false_ne_true, twoPow_succ_ushiftRight i hi, ih (by omega), ite_xor_self,
      lowBits_succ (i + 1)]
    ac_rfl

/-- With x a single bit, the loop of R88 adds V when it comes to that bit, and nothing afterwards. -/
theorem gfMul128Loop_of_twoPow (i : Nat) (hi : i < 128) (z v : BitVec 128) :
    gfMul128Loop (BitVec.twoPow 128 i) (i + 1) z v = z ^^^ v := by
  have hbit : (BitVec.twoPow 128 i).getLsbD i = true := by simp [hi]
  have hclear : ∀ j < i, (BitVec.twoPow 128 i).getLsbD j = false := fun j hj => by
    rw [BitVec.getLsbD_twoPow, decide_eq_false (by omega : ¬ i = j), Bool.and_false]
  rw [gfMul128Loop, gfMul128Loop_of_clear _ _ _ _ hclear, if_pos hbit]

theorem gfMul128_eq (x y : Bytes) : gfMul128 x y =
    beBytes 16 (gfMul128Loop (BitVec.ofNat 128 (be x)) 128 0#128 (BitVec.ofNat 128 (be y))).toNat := rfl

/-- The 128-bit word of a block of 16 bytes reads back as the block (R11). -/
theorem beBytes_ofNat_be (x : Bytes) (h : x.length = 16) : beBytes 16 (BitVec.ofNat 128 (be x)).toNat = x := by
  have hlt := be_lt x
  rw [h] at hlt
  rw [BitVec.toNat_ofNat, Nat.mod_eq_of_lt (by omega)]
  exact h ▸ beBytes_be x

theorem word_zeros : BitVec.ofNat 128 (be (zeros 16)) = 0#128 := by decide

theorem word_one : BitVec.ofNat 128 (be (0x80 :: zeros 15)) = BitVec.twoPow 128 127 := by decide

/-- Settles O47: in the loop of R88 a zero V and a zero x add nothing, and V = 80 00..00 runs through the bits of x. -/
theorem gfMul128HasZeroAndIdentity : Obligations.GfMul128HasZeroAndIdentity := by
  intro x hx
  simp only [gfMul128_eq, word_zeros, word_one]
  refine ⟨?_, ?_, ?_, ?_⟩
  · rw [gfMul128Loop_zero]
    decide
  · rw [gfMul128Loop_of_clear _ _ _ _ fun j _ => BitVec.getLsbD_zero]
    decide
  · rw [gfMul128Loop_twoPow _ 127 (by omega), lowBits_self, BitVec.zero_xor]
    exact beBytes_ofNat_be x hx
  · rw [gfMul128Loop_of_twoPow 127 (by omega), BitVec.zero_xor]
    exact beBytes_ofNat_be x hx

/-! ### Load and Store -/

/-- `Store(s)[4*col + row] = s[row][col]` (R98). -/
theorem store_getD (s : AesState) (row col : Fin 4) : (store s).getD (4 * col.val + row.val) 0 = s.get row col := by
  fin_cases row <;> fin_cases col <;> rfl

theorem load_store (s : AesState) : load (store s) = s :=
  AesState.ext_get _ _ fun row col => by rw [load, AesState.get_ofFn, store_getD]

theorem store_load (b : Bytes) (h : b.length = 16) : store (load b) = b := by
  refine List.ext_getElem (by rw [store_length, h]) fun i hi hb => ?_
  have h16 : i < 16 := hi
  have hget := store_getD (load b) ⟨i % 4, by omega⟩ ⟨i / 4, by omega⟩
  rw [load, AesState.get_ofFn, ← load] at hget
  simp only [Nat.div_add_mod] at hget
  rwa [List.getD_eq_getElem _ _ hi, List.getD_eq_getElem _ _ hb] at hget

/-! ### MixColumns -/

/-- The entry of a matrix of R104 or R105. -/
def mixEntry (m : List Bytes) (row k : Fin 4) : Byte := (m.getD row.val []).getD k.val 0x00

/-- The XOR of four bytes: the sum of R104 and R105. -/
def xorSum (f : Fin 4 → Byte) : Byte := f 0 ^^^ f 1 ^^^ f 2 ^^^ f 3

theorem mixWith_get (m : List Bytes) (s : AesState) (row col : Fin 4) :
    (mixWith m s).get row col = xorSum fun k => gfMul8 (mixEntry m row k) (s.get k col) := by
  rw [mixWith, AesState.get_ofFn]
  rfl

theorem XorLinear.map_xorSum {f : Byte → Byte} (hf : XorLinear f) (g : Fin 4 → Byte) :
    f (xorSum g) = xorSum fun k => f (g k) := by
  simp only [xorSum, hf _ _]

theorem XorLinear.xorSum {f : Fin 4 → Byte → Byte} (hf : ∀ k, XorLinear (f k)) :
    XorLinear fun x => xorSum fun k => f k x :=
  (((hf 0).xor (hf 1)).xor (hf 2)).xor (hf 3)

/-- The terms of a double sum in the other order. -/
theorem xorSum_comm (f : Fin 4 → Fin 4 → Byte) :
    (xorSum fun j => xorSum fun k => f j k) = xorSum fun k => xorSum fun j => f j k := by
  simp only [xorSum]
  ac_rfl

/-- A sum with one term. -/
theorem xorSum_ite (row : Fin 4) (f : Fin 4 → Byte) : (xorSum fun k => if row = k then f k else 0) = f row := by
  fin_cases row <;> simp [xorSum]

/-- The matrix of R105 times the matrix of R104 is the identity: on the powers of two by computation, hence on every byte. -/
theorem invMixMatrix_mul_mixMatrix (row k : Fin 4) (x : Byte) :
    (xorSum fun j => gfMul8 (mixEntry invMixMatrix row j) (gfMul8 (mixEntry mixMatrix j k) x)) =
      if row = k then x else 0 := by
  have hbasis : ∀ row k : Fin 4, ∀ i < 8,
      (xorSum fun j => gfMul8 (mixEntry invMixMatrix row j) (gfMul8 (mixEntry mixMatrix j k) (BitVec.twoPow 8 i))) =
        if row = k then BitVec.twoPow 8 i else 0 := by decide +kernel
  have hleft := XorLinear.xorSum fun j =>
    (gfMul8_linear_right (mixEntry invMixMatrix row j)).comp (gfMul8_linear_right (mixEntry mixMatrix j k))
  have hright : XorLinear fun x : Byte => if row = k then x else 0 := by
    split
    · exact XorLinear.identity
    · exact XorLinear.zero
  exact hleft.ext hright (hbasis row k) x

theorem invMixColumns_mixColumns (s : AesState) : invMixColumns (mixColumns s) = s := by
  refine AesState.ext_get _ _ fun row col => ?_
  calc (invMixColumns (mixColumns s)).get row col
      = xorSum fun j => xorSum fun k =>
          gfMul8 (mixEntry invMixMatrix row j) (gfMul8 (mixEntry mixMatrix j k) (s.get k col)) := by
        simp only [invMixColumns, mixColumns, mixWith_get, (gfMul8_linear_right _).map_xorSum]
    _ = xorSum fun k => if row = k then s.get k col else 0 := by
        rw [xorSum_comm]
        simp only [invMixMatrix_mul_mixMatrix]
    _ = s.get row col := xorSum_ite row _

/-! ### Every round transformation and its inverse -/

theorem addRoundKey_addRoundKey (s : AesState) (w : Bytes) (r : Nat) : addRoundKey (addRoundKey s w r) w r = s := by
  refine AesState.ext_get _ _ fun row col => ?_
  rw [addRoundKey, AesState.get_ofFn, addRoundKey, AesState.get_ofFn, BitVec.xor_assoc, BitVec.xor_self, BitVec.xor_zero]

theorem invSubBytes_subBytes (s : AesState) : invSubBytes (subBytes s) = s := by
  refine AesState.ext_get _ _ fun row col => ?_
  rw [invSubBytes, AesState.get_ofFn, subBytes, AesState.get_ofFn, invSbox_sbox]

theorem invShiftRows_shiftRows (s : AesState) : invShiftRows (shiftRows s) = s := by
  refine AesState.ext_get _ _ fun row col => ?_
  rw [invShiftRows, AesState.get_ofFn, shiftRows, AesState.get_ofFn, sub_add_cancel]

/-- Settles O49: each pair agrees byte by byte of the State (`AesState.ext_get`), MixColumns' by the product of its
matrices. -/
theorem roundTransformationsInvert : Obligations.RoundTransformationsInvert :=
  ⟨store_load, load_store, addRoundKey_addRoundKey, invSubBytes_subBytes, invShiftRows_shiftRows,
    invMixColumns_mixColumns⟩

end Sys2Proof.Machine

namespace Sys2Proof.Machine

/-! PROOFS. The key schedule's length and prefix, and KEYEXP. -/

/-- The schedule's loop only appends: what stands in `w` stays the prefix (R92). -/
theorem prefix_expandLoop (nk n pos rc : Nat) (w : Bytes) : w <+: expandLoop nk n pos rc w := by
  induction n generalizing pos rc w with
  | zero => exact List.prefix_rfl
  | succ n ih => exact (List.prefix_append w _).trans (ih _ _ _)

/-- The schedule begins with the key (R93). -/
theorem prefix_expandKey (key : Bytes) (nk : Nat) : key <+: expandKey key nk :=
  prefix_expandLoop nk _ nk 1 key

/-- Settles O48, by `expandKey_length` and `prefix_expandKey`. -/
theorem expandKeyLengthAndPrefix : Obligations.ExpandKeyLengthAndPrefix := by
  rintro key nk hk rfl
  exact ⟨expandKey_length key _ rfl hk, (List.prefix_iff_eq_take.1 (prefix_expandKey key _)).symm⟩

/-- OUT_LEN holds every schedule's length (R90, R96). -/
theorem schedLen_lt (nk : Nat) (hk : nk = 16 ∨ nk = 24 ∨ nk = 32) : schedLen nk < 2 ^ 16 := by
  rcases hk with rfl | rfl | rfl <;> decide

/-- The image of a key's schedule is the schedule and zeros up to 240 bytes (R95). -/
theorem schedImage_expandKey (key : Bytes) (nk : Nat) (hl : key.length = nk) (hk : nk = 16 ∨ nk = 24 ∨ nk = 32) :
    schedImage (expandKey key nk) = expandKey key nk ++ zeros (240 - schedLen nk) := by
  rw [schedImage, expandKey_length key nk hl hk]

/-- Settles O16: KEYEXP writes the image of the schedule and completes, or fails as every command does. -/
theorem keyexpExpandsTheKey : Obligations.KeyexpExpandsTheKey := by
  refine ⟨rfl, fun s hs => ⟨fun nk hk => ⟨_, exec_keyexp_ok s nk hk, ?_⟩,
    fun hk => ⟨_, exec_keyexp_keyLen s hk, failed_failCommand s _ _, rfl⟩⟩⟩
  have hnk := keyBytes_cases _ nk hk
  have hw : Success nk s .keyexp (s.setSched (expandKey (s.key nk) nk)) (schedLen nk) := .keyexp
  have hcompleted := completed_complete (s := s) (u := s.setSched (expandKey (s.key nk) nk)) rfl 0x1 .ok _
    (schedLen_lt nk hnk)
  have himage := schedImage_expandKey _ nk (s.key_length nk) hnk
  exact ⟨hcompleted, (s.sched_setSched hs nk hk).trans himage, rfl, rfl,
    hw.keptRegs.complete _ _ _, ⟨rfl, rfl⟩, rfl, keptOutside_setSched s hs nk hk⟩

end Sys2Proof.Machine

namespace Sys2Proof.Machine

/-! PROOFS. The block cipher: decryption inverts encryption; ENC_BLOCK and DEC_BLOCK. -/

/-! ### The rounds of R107 undo the rounds of R106 -/

theorem invSubBytes_invShiftRows (s : AesState) : invSubBytes (invShiftRows (shiftRows (subBytes s))) = s := by
  rw [invShiftRows_shiftRows, invSubBytes_subBytes]

/-- R107 holds each round's State before its InvShiftRows: seen there, round r of R107 undoes round r of R106. -/
theorem decRound_encRound (w : Bytes) (s : AesState) (r : Nat) :
    decRound w (shiftRows (subBytes (encRound w s r))) r = shiftRows (subBytes s) := by
  rw [decRound, invSubBytes_invShiftRows, encRound, addRoundKey_addRoundKey, invMixColumns_mixColumns]

/-- The rounds `rs` of R106, undone by those of R107 in the reverse order. -/
theorem foldl_decRound_reverse (w : Bytes) (rs : List Nat) (s : AesState) :
    rs.reverse.foldl (decRound w) (shiftRows (subBytes (rs.foldl (encRound w) s))) = shiftRows (subBytes s) := by
  induction rs generalizing s with
  | nil => rfl
  | cons r rs ih =>
    rw [List.foldl_cons, List.reverse_cons, List.foldl_append, ih]
    exact decRound_encRound w s r

/-- Decryption inverts encryption under every schedule and number of rounds. -/
theorem aesDecrypt_aesEncrypt (w : Bytes) (nr : Nat) (b : Bytes) (hb : b.length = 16) :
    aesDecrypt w nr (aesEncrypt w nr b) = b := by
  simp only [aesDecrypt, aesEncrypt]
  rw [load_store, addRoundKey_addRoundKey, foldl_decRound_reverse, invSubBytes_invShiftRows, addRoundKey_addRoundKey,
    store_load b hb]

/-- Settles O50: no property of the key schedule is needed (`aesDecrypt_aesEncrypt`). -/
theorem decryptInvertsEncrypt : Obligations.DecryptInvertsEncrypt := fun nk key b _ _ hb =>
  aesDecrypt_aesEncrypt (expandKey key nk) (rounds nk) b hb

/-! ### ENC_BLOCK and DEC_BLOCK -/

/-- What R110 and R111 say of a success, for the command with opcode `op` and its output block `y`. -/
def BlockWritten (op : BitVec 4) (nk : Nat) (y : Bytes) (s t : State) : Prop :=
  Completed op .ok 16 s t ∧ t.output 16 = y ∧ t.sched = schedImage (expandKey (s.key nk) nk) ∧
    t.status.ksValid = true ∧ t.status.ctxValid = s.status.ctxValid ∧
    KeptRegs s t ∧ KeptRng s t ∧ t.tagInLen = s.tagInLen ∧
    KeptOutside s t (fun a => inArr .sched 240 a ∨ inArr .outBuf 16 a)

/-- Writing the schedule, a block to OUT_BUF and the completion flags is such a success, whatever the block. -/
theorem blockWritten_complete (s : State) (hs : s.memWf = true) (nk : Nat) (hk : keyBytes s.ctrl.keyLen = some nk)
    (op : BitVec 4) (y : Bytes) (hy : y.length = 16) : BlockWritten op nk y s
      (((s.setSched (expandKey (s.key nk) nk)).setArr .outBuf y).complete op .ok 16) := by
  have hwf := s.memWf_setSched hs (expandKey (s.key nk) nk)
  have hsched := (State.sched_setOut _ hwf y).trans (s.sched_setSched hs nk hk)
  have hkept := (keptOutside_setSched s hs nk hk).trans (keptOutside_setArr _ hwf .outBuf y 16 hy.le)
  have hout := State.arrSlice_setArr_same _ hwf .outBuf y 16 hy.symm
  refine ⟨completed_complete ?_ op .ok 16 (by decide), hout, hsched, rfl, rfl, KeptRegs.complete ?_ op .ok 16,
    ⟨rfl, rfl⟩, rfl, hkept⟩
  · rfl
  · constructor <;> rfl

/-- Settles O17: a success writes the encrypted block (`blockWritten_complete`), a failure is like every command's. -/
theorem encBlockEncryptsTheBlock : Obligations.EncBlockEncryptsTheBlock :=
  ⟨rfl, fun s hs => ⟨
    fun nk hk => ⟨_, exec_encBlock_ok s nk hk, blockWritten_complete s hs nk hk 0x2 _ (aesEncrypt_length ..)⟩,
    fun hk => ⟨_, exec_encBlock_keyLen s hk, failed_failCommand s 0x2 .keyLen, rfl⟩⟩⟩

/-- Settles O18, as O17 with the decrypted block. -/
theorem decBlockDecryptsTheBlock : Obligations.DecBlockDecryptsTheBlock :=
  ⟨rfl, fun s hs => ⟨
    fun nk hk => ⟨_, exec_decBlock_ok s nk hk, blockWritten_complete s hs nk hk 0x3 _ (aesDecrypt_length ..)⟩,
    fun hk => ⟨_, exec_decBlock_keyLen s hk, failed_failCommand s 0x3 .keyLen, rfl⟩⟩⟩

/-! ### MSG_LEN -/

/-- The Exec that R110 and R111 share, with the block function `f` of each. -/
def runBlock (f : Bytes → Nat → Bytes → Bytes) (s : State) : ExecResult :=
  withKey s fun nr w => .ok ((s.setSched w).setArr .outBuf (f w nr (s.input 16))) 16

theorem exec_encBlock_eq (s : State) : exec .encBlock s = finish 0x2 s (runBlock aesEncrypt s) := rfl

theorem exec_decBlock_eq (s : State) : exec .decBlock s = finish 0x3 s (runBlock aesDecrypt s) := rfl

theorem runBlock_ok (f : Bytes → Nat → Bytes → Bytes) (s : State) (nk : Nat) (hk : keyBytes s.ctrl.keyLen = some nk) :
    runBlock f s = .ok ((s.setSched (expandKey (s.key nk) nk)).setArr .outBuf
      (f (expandKey (s.key nk) nk) (rounds nk) (s.input 16))) 16 := withKey_some _ _ nk hk

theorem runBlock_keyLen (f : Bytes → Nat → Bytes → Bytes) (s : State) (hk : s.ctrl.keyLen = 0b11) :
    runBlock f s = .fail .keyLen := withKey_none _ _ hk

/-- The completion of a block command carries MSG_LEN through unread. -/
theorem finish_runBlock_msgLen (f : Bytes → Nat → Bytes → Bytes) (op : BitVec 4) (s t : State) (n : BitVec 16)
    (h : finish op s (runBlock f s) = .next t) :
    finish op { s with msgLen := n } (runBlock f { s with msgLen := n }) = .next { t with msgLen := n } := by
  rcases keyLen_cases s.ctrl.keyLen with hk | ⟨nk, hk⟩
  · rw [runBlock_keyLen f s hk] at h
    rw [runBlock_keyLen f { s with msgLen := n } hk]
    cases h; rfl
  · rw [runBlock_ok f s nk hk] at h
    rw [runBlock_ok f { s with msgLen := n } nk hk]
    cases h; rfl

/-- Settles O19: both commands are instances of `finish_runBlock_msgLen`. -/
theorem blockCommandsIgnoreMsgLen : Obligations.BlockCommandsIgnoreMsgLen := by
  rintro s t n i (rfl | rfl) h
  · rw [exec_encBlock_eq] at h ⊢
    exact finish_runBlock_msgLen aesEncrypt 0x2 s t n h
  · rw [exec_decBlock_eq] at h ⊢
    exact finish_runBlock_msgLen aesDecrypt 0x3 s t n h

end Sys2Proof.Machine

namespace Sys2Proof.Machine

/-! PROOFS. CBC mode: padding and its removal (R112, R113), and the chaining of whole blocks (R114, R115). -/

/-! ### Padding -/

@[simp] theorem pad_length (m : Bytes) : (pad m).length = paddedLen m.length := by
  rw [pad, List.length_append, List.length_replicate, paddedLen]
  omega

/-- Padding fills one more block, whole or in part (R112). -/
theorem paddedLen_spec (n : Nat) : paddedLen n % 16 = 0 ∧ n < paddedLen n ∧ paddedLen n ≤ n + 16 := by
  unfold paddedLen
  omega

theorem pad_length_mod (m : Bytes) : (pad m).length % 16 = 0 := by
  rw [pad_length]
  exact (paddedLen_spec m.length).1

/-- Settles O51, by the length of the padded message. -/
theorem padFillsTheBlock : Obligations.PadFillsTheBlock := by
  intro m
  obtain ⟨hmod, hlt, hle⟩ := paddedLen_spec m.length
  rw [pad_length]
  exact ⟨_, rfl, by omega, by omega, rfl, hmod, by omega, hle⟩

/-! ### Unpadding -/

/-- The last `n` bytes of a sequence are all `p` exactly if each of them is. -/
theorem drop_eq_replicate_iff (x : Bytes) (n : Nat) (p : Byte) (hn : n ≤ x.length) :
    x.drop (x.length - n) = List.replicate n p ↔ ∀ j, x.length - n ≤ j → j < x.length → x.getD j 0 = p := by
  rw [List.eq_replicate_iff, List.length_drop, List.forall_mem_iff_getElem]
  constructor
  · rintro ⟨-, h⟩ j hj hlt
    have := h (j - (x.length - n)) (by rw [List.length_drop]; omega)
    simpa [Nat.add_sub_cancel' hj, hlt] using this
  · refine fun h => ⟨by omega, fun i hi => ?_⟩
    rw [List.length_drop] at hi
    have := h (x.length - n + i) (by omega) (by omega)
    simpa [show x.length - n + i < x.length by omega] using this

/-- With a whole block there, `p ≤ len(x)` never decides (R113). -/
theorem padValid_iff (x : Bytes) (p : Byte) (hx : 16 ≤ x.length) :
    padValid x p = true ↔
      1 ≤ p.toNat ∧ p.toNat ≤ 16 ∧ ∀ j, x.length - p.toNat ≤ j → j < x.length → x.getD j 0 = p := by
  simp only [padValid, Bool.and_eq_true, decide_eq_true_eq, beq_iff_eq, and_assoc]
  refine and_congr_right fun _ => and_congr_right fun hp => ?_
  rw [drop_eq_replicate_iff x _ p (hp.trans hx)]
  exact and_iff_right (hp.trans hx)

theorem unpad_of_valid (x : Bytes) (h : padValid x (x.getLastD 0) = true) :
    unpad x = some (x.take (x.length - (x.getLastD 0).toNat)) := if_pos h

theorem unpad_of_not_valid (x : Bytes) (h : ¬padValid x (x.getLastD 0) = true) : unpad x = none := if_neg h

/-- Unpadding gives no more bytes than it is given (R113). -/
theorem unpad_length_le (x m : Bytes) (h : unpad x = some m) : m.length ≤ x.length := by
  by_cases hv : padValid x (x.getLastD 0) = true
  · rw [unpad_of_valid x hv] at h
    cases h
    exact List.length_take_le' _ _
  · rw [unpad_of_not_valid x hv] at h
    cases h

/-- Any `n` bytes of value `n`, with n in [1,16], are stripped (R113). -/
theorem unpad_append_replicate (m : Bytes) (n : Nat) (h1 : 1 ≤ n) (h16 : n ≤ 16) :
    unpad (m ++ List.replicate n (BitVec.ofNat 8 n)) = some m := by
  have hp : (BitVec.ofNat 8 n).toNat = n := by rw [BitVec.toNat_ofNat]; omega
  have hlast : (m ++ List.replicate n (BitVec.ofNat 8 n)).getLastD 0 = BitVec.ofNat 8 n := by
    obtain ⟨k, rfl⟩ : ∃ k, n = k + 1 := ⟨n - 1, by omega⟩
    rw [List.replicate_succ', ← List.append_assoc, List.getLastD_concat]
  have hv : padValid (m ++ List.replicate n (BitVec.ofNat 8 n)) (BitVec.ofNat 8 n) = true := by
    simp [padValid, hp, h1, h16]
  rw [unpad_of_valid _ (by rw [hlast]; exact hv), hlast, hp]
  simp

theorem unpad_pad (m : Bytes) : unpad (pad m) = some m :=
  unpad_append_replicate m _ (by omega) (by omega)

/-- Settles O52: `padValid` is the condition of R113 as soon as one block is there (`padValid_iff`). -/
theorem unpadStripsExactlyValidPadding : Obligations.UnpadStripsExactlyValidPadding := by
  refine ⟨?_, unpad_pad⟩
  rintro x hpos hmod p rfl
  have hvalid := padValid_iff x (x.getLastD 0) (by omega)
  exact ⟨fun h => unpad_of_valid x (hvalid.2 h), fun h => unpad_of_not_valid x (mt hvalid.1 h)⟩

/-- A last byte that is no number of padding bytes, or that one of the padding bytes differs from, is bad padding (R119). -/
theorem unpad_eq_none (x : Bytes) (hpos : 0 < x.length) (hmod : x.length % 16 = 0)
    (hbad : x.getLastD 0 = 0x00 ∨ 0x10 < (x.getLastD 0).toNat ∨
      ∃ j, x.length - (x.getLastD 0).toNat ≤ j ∧ j < x.length ∧ x.getD j 0 ≠ x.getLastD 0) : unpad x = none := by
  refine (unpadStripsExactlyValidPadding.1 x hpos hmod _ rfl).2 ?_
  rintro ⟨hge, hle, hall⟩
  rcases hbad with hzero | habove | ⟨j, hj, hlt, hne⟩
  · rw [hzero] at hge
    exact absurd hge (by decide)
  · exact absurd hle (by omega)
  · exact hne (hall j hj hlt)

/-! ### Chaining -/

/-- Whole blocks, one after the other: what holds of none, and with one more block before those of which it holds. -/
theorem wholeBlocks_induction {motive : (x : Bytes) → x.length % 16 = 0 → Prop} (nil : motive [] rfl)
    (append : ∀ (b x : Bytes) (_ : b.length = 16) (hx : x.length % 16 = 0) (hbx : (b ++ x).length % 16 = 0),
      motive x hx → motive (b ++ x) hbx)
    (x : Bytes) (hx : x.length % 16 = 0) : motive x hx := by
  obtain ⟨k, hk⟩ : ∃ k, x.length = 16 * k := ⟨x.length / 16, by omega⟩
  induction k generalizing x with
  | zero =>
    cases List.length_eq_zero_iff.1 hk
    exact nil
  | succ k ih =>
    have hd : (x.drop 16).length = 16 * k := by rw [List.length_drop]; omega
    have h := append (x.take 16) (x.drop 16) (by rw [List.length_take]; omega) (by omega)
      (by rwa [List.take_append_drop]) (ih _ (by omega) hd)
    simpa only [List.take_append_drop] using h

@[simp] theorem cbcEncrypt_nil (e : Bytes → Bytes) (iv : Bytes) : cbcEncrypt e iv [] = [] := rfl

@[simp] theorem cbcDecrypt_nil (d : Bytes → Bytes) (iv : Bytes) : cbcDecrypt d iv [] = [] := rfl

/-- Chaining encrypts the first block and goes on with its ciphertext in the place of the IV (R114). -/
theorem cbcEncrypt_append (e : Bytes → Bytes) (iv b x : Bytes) (hb : b.length = 16) :
    cbcEncrypt e iv (b ++ x) = e (xorBytes b iv) ++ cbcEncrypt e (e (xorBytes b iv)) x := by
  rw [cbcEncrypt, blocks_append b x hb, cbcEncBlocks, cbcEncrypt]

/-- Decryption goes on with the ciphertext of the first block in the place of the IV (R115). -/
theorem cbcDecrypt_append (d : Bytes → Bytes) (iv c x : Bytes) (hc : c.length = 16) :
    cbcDecrypt d iv (c ++ x) = xorBytes (d c) iv ++ cbcDecrypt d c x := by
  rw [cbcDecrypt, blocks_append c x hc, cbcDecBlocks, cbcDecrypt]

theorem cbcEncrypt_length (e : Bytes → Bytes) (he : ∀ b, (e b).length = 16) (iv p : Bytes) (hp : p.length % 16 = 0) :
    (cbcEncrypt e iv p).length = p.length := by
  induction p, hp using wholeBlocks_induction generalizing iv with
  | nil => rfl
  | append b x hb _ _ ih => rw [cbcEncrypt_append e iv b x hb, List.length_append, he, ih, List.length_append, hb]

theorem cbcDecrypt_length (d : Bytes → Bytes) (hd : ∀ b, (d b).length = 16) (iv c : Bytes) (hi : iv.length = 16)
    (hc : c.length % 16 = 0) : (cbcDecrypt d iv c).length = c.length := by
  induction c, hc using wholeBlocks_induction generalizing iv with
  | nil => rfl
  | append b x hb _ _ ih =>
    rw [cbcDecrypt_append d iv b x hb, List.length_append, xorBytes_length, hd, hi, ih b hb, List.length_append, hb]
    rfl

/-- Settles O53, block by block: the decrypted block, XORed with what it was chained to, is the plaintext block. -/
theorem cbcDecryptInvertsCbcEncrypt : Obligations.CbcDecryptInvertsCbcEncrypt := by
  intro e d hed iv p hiv hp
  induction p, hp using wholeBlocks_induction generalizing iv with
  | nil => rw [cbcEncrypt_nil, cbcDecrypt_nil]
  | append b x hb _ _ ih =>
    have hx : (xorBytes b iv).length = 16 := by rw [xorBytes_length, hb, hiv]; rfl
    obtain ⟨hlen, hinv⟩ := hed _ hx
    rw [cbcEncrypt_append e iv b x hb, cbcDecrypt_append d iv _ _ hlen, hinv, xorBytes_cancel b iv (by omega),
      ih _ hlen]

end Sys2Proof.Machine

namespace Sys2Proof.Machine

/-! PROOFS. CBC_ENC and CBC_DEC (R116, R117): results, failures and frames, the round trip (R118) and bad padding (R119). -/

@[simp] theorem State.message_length (s : State) : s.message.length = s.msgLen.toNat := State.arrSlice_length s _ _ _

@[simp] theorem State.iv_length (s : State) : s.iv.length = 16 := State.arrSlice_length s _ _ _

/-! ### The schedule and an output -/

/-- The completion step records a success as it is (R70). -/
theorem Success.completed {nk : Nat} {s u : State} {i : Instr} {n : Nat} (h : Success nk s i u n) (op : BitVec 4)
    (hn : n < 2 ^ 16) : Completed op .ok n s (u.complete op .ok n) :=
  completed_complete (by cases h <;> rfl) op .ok n hn

section
variable (s : State) (hs : s.memWf = true) (nk : Nat) (hk : keyBytes s.ctrl.keyLen = some nk) (y : Bytes)
include hs hk

/-- A result in OUT_BUF leaves the schedule in SCHED. -/
theorem State.sched_setSched_setOut :
    ((s.setSched (expandKey (s.key nk) nk)).setArr .outBuf y).sched = schedImage (expandKey (s.key nk) nk) :=
  (State.sched_setOut _ (s.memWf_setSched hs _) y).trans (s.sched_setSched hs nk hk)

/-- The schedule and a result are written to SCHED and to the result's place in OUT_BUF. -/
theorem keptOutside_setSched_setOut (n : Nat) (hn : y.length ≤ n) :
    KeptOutside s ((s.setSched (expandKey (s.key nk) nk)).setArr .outBuf y)
      fun a => inArr .sched 240 a ∨ inArr .outBuf n a :=
  (keptOutside_setSched s hs nk hk).trans (keptOutside_setArr _ (s.memWf_setSched hs _) .outBuf y n hn)

end

/-! ### CBC_ENC -/

/-- The ciphertext of a CBC_ENC is as long as the padded message (R116). -/
theorem State.ciphertext_length (s : State) (nr : Nat) (w iv : Bytes) :
    (cbcEncrypt (aesEncrypt w nr) iv (pad s.message)).length = paddedLen s.msgLen.toNat := by
  rw [cbcEncrypt_length _ (aesEncrypt_length w nr) iv _ (pad_length_mod _), pad_length, State.message_length]

/-- The ciphertext stands in OUT_BUF. -/
theorem State.output_cbcEncWrites (s : State) (hs : s.memWf = true) (nr : Nat) (w iv : Bytes) :
    (s.cbcEncWrites nr w iv).output (paddedLen s.msgLen.toNat) = cbcEncrypt (aesEncrypt w nr) iv (pad s.message) :=
  State.arrSlice_setArr_same _ (s.memWf_setSched hs w) .outBuf _ _ (s.ciphertext_length nr w iv).symm

theorem State.memWf_cbcEncWrites (s : State) (hs : s.memWf = true) (nr : Nat) (w iv : Bytes) :
    (s.cbcEncWrites nr w iv).memWf = true :=
  State.memWf_setArr _ (s.memWf_setSched hs w) .outBuf _

theorem keptOutside_cbcEncWrites (s : State) (hs : s.memWf = true) (nk : Nat) (hk : keyBytes s.ctrl.keyLen = some nk)
    (nr : Nat) (iv : Bytes) : KeptOutside s (s.cbcEncWrites nr (expandKey (s.key nk) nk) iv)
      fun a => inArr .sched 240 a ∨ inArr .outBuf (paddedLen s.msgLen.toNat) a :=
  keptOutside_setSched_setOut s hs nk hk _ _ (s.ciphertext_length nr _ iv).le

/-- Writing the ciphertext keeps IV. -/
theorem State.iv_cbcEncWrites (s : State) (hs : s.memWf = true) (nk : Nat) (hk : keyBytes s.ctrl.keyLen = some nk)
    (nr : Nat) (iv : Bytes) : (s.cbcEncWrites nr (expandKey (s.key nk) nk) iv).iv = s.iv :=
  (keptOutside_cbcEncWrites s hs nk hk nr iv).arrSlice .iv 16 fun a ha => by simp only [inArr, Arr.base] at ha ⊢; omega

/-- Taking the draw keeps OUT_BUF and writes IV (R116). -/
theorem State.output_takeDraw (s : State) (hs : s.memWf = true) (draw : Vector Byte 16) (n : Nat) :
    (s.takeDraw draw).output n = s.output n :=
  (keptOutside_takeDraw s hs draw).arrSlice .outBuf n fun a ha => by simp only [inArr, Arr.base] at ha ⊢; omega

theorem State.iv_takeDraw (s : State) (hs : s.memWf = true) (draw : Vector Byte 16) :
    (s.takeDraw draw).iv = draw.toList :=
  s.arrSlice_setArr_same hs .iv draw.toList 16 draw.length_toList.symm

/-- OUT_LEN holds the padded length of every message that CBC_ENC takes (R8, R116). -/
theorem paddedLen_lt (cfg : Config) (hc : cfg.wf = true) (n : Nat) (hn : n ≤ cfg.maxMsg) : paddedLen n < 2 ^ 16 := by
  have := (paddedLen_spec n).2.2
  simp only [Config.wf, Bool.and_eq_true, decide_eq_true_eq] at hc
  omega

/-- A message shorter than MAX_MSG still fits IN_BUF when it is padded: MAX_MSG is a multiple of 16 (R8, R118). -/
theorem paddedLen_le_maxMsg (cfg : Config) (hc : cfg.wf = true) (n : Nat) (hn : n < cfg.maxMsg) :
    paddedLen n ≤ cfg.maxMsg := by
  simp only [Config.wf, Bool.and_eq_true, beq_iff_eq] at hc
  unfold paddedLen
  omega

/-- A message of MAX_MSG bytes is padded by a whole block (R118). -/
theorem paddedLen_maxMsg (cfg : Config) (hc : cfg.wf = true) : paddedLen cfg.maxMsg = cfg.maxMsg + 16 := by
  simp only [Config.wf, Bool.and_eq_true, beq_iff_eq] at hc
  unfold paddedLen
  omega

/-- Settles O20: a success is `State.cbcEncWrites` under IV, a failure is like every command's. -/
theorem cbcEncEncryptsUnderTheIvRegister : Obligations.CbcEncEncryptsUnderTheIvRegister := by
  refine fun s hs hc => ⟨fun nk hk hl hg => ⟨_, exec_cbcEnc_ok s nk hk hl hg, ?_⟩,
    fun hk => ⟨_, exec_cbcEnc_keyLen s hk, failed_failCommand s _ _, rfl⟩,
    fun hk hl => ⟨_, exec_cbcEnc_len s hk hl, failed_failCommand s _ _, rfl⟩⟩
  have hw := Success.cbcEnc (nk := nk) hl hg
  exact ⟨hw.completed 0x4 (paddedLen_lt _ hc _ hl), s.output_cbcEncWrites hs _ _ _,
    s.sched_setSched_setOut hs nk hk _, s.iv_cbcEncWrites hs nk hk _ _, rfl, rfl, hw.keptRegs.complete _ _ _, ⟨rfl, rfl⟩,
    rfl, keptOutside_cbcEncWrites s hs nk hk _ _⟩

/-- Settles O21: a success is `State.cbcEncWrites` under the draw, followed by `State.takeDraw`. -/
theorem cbcEncTakesTheDraw : Obligations.CbcEncTakesTheDraw := by
  refine fun s nk draw hs hc hk hl hg hp => ⟨_, exec_cbcEnc_draw s nk draw hk hl hg hp, ?_⟩
  have hw := Success.cbcEncDraw (nk := nk) draw hl hg hp
  have hwf := s.memWf_cbcEncWrites hs (rounds nk) (expandKey (s.key nk) nk) draw.toList
  have hkept := (keptOutside_cbcEncWrites s hs nk hk (rounds nk) draw.toList).trans (keptOutside_takeDraw _ hwf draw)
  exact ⟨hw.completed 0x4 (paddedLen_lt _ hc _ hl),
    (State.output_takeDraw _ hwf draw _).trans (s.output_cbcEncWrites hs _ _ _),
    (State.sched_takeDraw _ hwf draw).trans (s.sched_setSched_setOut hs nk hk _), State.iv_takeDraw _ hwf draw, rfl, rfl,
    hw.keptRegs.complete _ _ _, rfl, rfl, rfl, hkept.mono fun a ha => by rwa [or_right_comm, or_assoc] at ha⟩

/-! ### CBC_DEC -/

/-- The decrypted message is as long as the ciphertext (R117). -/
theorem State.decrypted_length (s : State) (w : Bytes) (nr : Nat) (h16 : s.msgLen.toNat % 16 = 0) :
    (cbcDecrypt (aesDecrypt w nr) s.iv s.message).length = s.msgLen.toNat := by
  rw [cbcDecrypt_length _ (aesDecrypt_length w nr) _ _ s.iv_length (by rwa [State.message_length]), State.message_length]

/-- Settles O23: a success writes the schedule and the unpadded message, a failure is like every command's. -/
theorem cbcDecDecryptsAndUnpads : Obligations.CbcDecDecryptsAndUnpads := by
  refine ⟨rfl, fun s hs _ => ⟨fun nk hk h0 h16 hl => ⟨fun m hm => ⟨_, exec_cbcDec_ok s nk m hk (by omega) hm, ?_⟩,
    fun hm => ⟨_, exec_cbcDec_pad s nk hk (by omega) hm, failed_failCommand s _ _, rfl⟩⟩,
    fun hk => ⟨_, exec_cbcDec_keyLen s hk, failed_failCommand s _ _, rfl⟩,
    fun hk hl => ⟨_, exec_cbcDec_len s hk hl, failed_failCommand s _ _, rfl⟩⟩⟩
  have hw := Success.cbcDec (nk := nk) m hl hm
  have hlen : m.length < 2 ^ 16 := calc
    m.length ≤ (cbcDecrypt _ s.iv s.message).length := unpad_length_le _ m hm
    _ = s.msgLen.toNat := s.decrypted_length _ _ h16
    _ < 2 ^ 16 := s.msgLen.isLt
  exact ⟨hw.completed 0x5 hlen, State.arrSlice_setArr_same _ (s.memWf_setSched hs _) .outBuf m _ rfl,
    s.sched_setSched_setOut hs nk hk m, rfl, rfl, hw.keptRegs.complete _ _ _, ⟨rfl, rfl⟩, rfl,
    keptOutside_setSched_setOut s hs nk hk m _ le_rfl⟩

/-- Settles O58: each of the three endings breaks a condition of R113 (`unpad_eq_none`). -/
theorem badPaddingIsRejected : Obligations.BadPaddingIsRejected := by
  rintro s nk x p hk h0 h16 hl hx rfl hbad
  have hlen : x.length = s.msgLen.toNat := hx ▸ s.decrypted_length _ _ h16
  have hnone : unpad x = none := unpad_eq_none x (by omega) (by omega) hbad
  exact ⟨_, exec_cbcDec_pad s nk hk (by omega) (hx ▸ hnone), rfl, rfl, rfl, rfl⟩

/-! ### The round trip -/

/-- What a successful CBC_ENC leaves for CBC_DEC, whichever way it had its IV: OUT_LEN, and in OUT_BUF the ciphertext under
the IV that stands in the register afterwards (R116). -/
theorem cbcEnc_success {s t : State} (hc : s.cfg.wf = true) (h : exec .cbcEnc s = .next t) (hbs : s.status.busy = true)
    (hb : t.status.busy = false) (herr : t.status.errCode = .ok) :
    ∃ nk, keyBytes s.ctrl.keyLen = some nk ∧ t.outLen.toNat = paddedLen s.msgLen.toNat ∧
      (s.memWf = true → t.output (paddedLen s.msgLen.toNat) =
        cbcEncrypt (aesEncrypt (expandKey (s.key nk) nk) (rounds nk)) t.iv (pad s.message)) := by
  cases exec_ends _ _ _ h with
  | failed _ _ _ _ hcode => exact absurd herr hcode
  | waits => exact absurd (hbs.symm.trans hb) nofun
  | ok nk _ u _ hk hw =>
    have hlen := hw.completed 0x4
    refine ⟨nk, hk, ?_⟩
    cases hw with
    | cbcEnc hl =>
      exact ⟨(hlen (paddedLen_lt _ hc _ hl)).outLen, fun hs => (s.output_cbcEncWrites hs _ _ _).trans
        (congrArg (cbcEncrypt _ · _) (s.iv_cbcEncWrites hs nk hk _ _).symm)⟩
    | cbcEncDraw draw hl =>
      refine ⟨(hlen (paddedLen_lt _ hc _ hl)).outLen, fun hs => ?_⟩
      have hwf := s.memWf_cbcEncWrites hs (rounds nk) (expandKey (s.key nk) nk) draw.toList
      exact (State.output_takeDraw _ hwf draw _).trans ((s.output_cbcEncWrites hs _ _ _).trans
        (congrArg (cbcEncrypt _ · _) (State.iv_takeDraw _ hwf draw).symm))

/-- Decrypting and unpadding undoes padding and encrypting, under every schedule (R118). -/
theorem unpad_cbcDecrypt_cbcEncrypt (w : Bytes) (nr : Nat) (iv m : Bytes) (hi : iv.length = 16) :
    unpad (cbcDecrypt (aesDecrypt w nr) iv (cbcEncrypt (aesEncrypt w nr) iv (pad m))) = some m := by
  rw [cbcDecryptInvertsCbcEncrypt _ _ (fun b hb => ⟨aesEncrypt_length w nr b, aesDecrypt_aesEncrypt w nr b hb⟩) iv _ hi
    (pad_length_mod m), unpad_pad]

/-- The CBC_DEC of R118 decrypts and unpads to the message that was encrypted. -/
theorem unpad_cbcDecrypt_message {s t u : State} (nk : Nat) (hk : keyBytes s.ctrl.keyLen = some nk)
    (hlen : t.outLen.toNat = paddedLen s.msgLen.toNat)
    (hout : t.output (paddedLen s.msgLen.toNat) =
      cbcEncrypt (aesEncrypt (expandKey (s.key nk) nk) (rounds nk)) t.iv (pad s.message))
    (hkey : ∀ a, inArr .key 32 a → u.byteAt a = s.byteAt a) (hiv : u.iv = t.iv) (hml : u.msgLen = t.outLen)
    (hin : u.input t.outLen.toNat = t.output t.outLen.toNat) :
    unpad (cbcDecrypt (aesDecrypt (expandKey (u.key nk) nk) (rounds nk)) u.iv u.message) = some s.message := by
  have hkey' : u.key nk = s.key nk := State.arrSlice_congr s u .key 0 nk fun a h1 h2 =>
    hkey a ⟨h1, h2.trans_le (Nat.add_le_add_left (keyBytes_le _ nk hk) _)⟩
  have hmsg : u.message = cbcEncrypt (aesEncrypt (expandKey (s.key nk) nk) (rounds nk)) u.iv (pad s.message) := by
    rw [State.message, hml, hin, hlen, hout, hiv]
  rw [hmsg, hkey', unpad_cbcDecrypt_cbcEncrypt _ _ _ _ u.iv_length]

/-- Settles O57: CBC_DEC undoes what `cbcEnc_success` says of CBC_ENC, if MAX_MSG leaves room for the padded length. -/
theorem cbcRoundTripOnTheMachine : Obligations.CbcRoundTripOnTheMachine := by
  constructor
  · intro s t u hs hc hu hcfg hbs h hb herr hl hkl hkey hiv hml hin
    obtain ⟨nk, hk, hlen, hout⟩ := cbcEnc_success hc h hbs hb herr
    obtain ⟨hmod, hlt, -⟩ := paddedLen_spec s.msgLen.toNat
    have hfits := paddedLen_le_maxMsg s.cfg hc _ hl
    have hdec := unpad_cbcDecrypt_message nk hk hlen (hout hs) hkey hiv hml hin
    rw [← hml] at hlen
    obtain ⟨v, hv, hcompleted, hres, -⟩ := ((cbcDecDecryptsAndUnpads.2 u hu (hcfg ▸ hc)).1 nk (hkl ▸ hk) (by omega)
      (by omega) (by rw [hcfg]; omega)).1 _ hdec
    rw [State.message_length] at hcompleted hres
    exact ⟨v, hv, hcompleted, hres⟩
  · intro s t u hc h hbs hb herr hl
    obtain ⟨nk, hk, hlen, -⟩ := cbcEnc_success hc h hbs hb herr
    rw [hl, paddedLen_maxMsg s.cfg hc] at hlen
    refine ⟨hlen, fun hcfg hkl hml => ⟨_, exec_cbcDec_len u (hkl ▸ keyLen_ne _ nk hk) ?_, rfl⟩⟩
    rw [hml, hlen, hcfg]
    omega

end Sys2Proof.Machine

namespace Sys2Proof.Machine

/-! PROOFS. GCM mode's functions: the counter (R120), the lengths of GHASH's inputs (R121), and GCTR as its own inverse
(R122). -/

/-! ### The counter -/

/-- A prefix of a known length and what stands behind it, as parts of the whole. -/
theorem slice_append_left (a c : Bytes) (n : Nat) (h : a.length = n) : slice (a ++ c) 0 n = a := by
  rw [slice, List.drop_zero, Nat.sub_zero, List.take_left' h]

theorem slice_append_right (a c : Bytes) (n m : Nat) (h : a.length = n) (hm : n + c.length = m) :
    slice (a ++ c) n m = c := by
  rw [slice, List.drop_left' h, List.take_of_length_le (by omega)]

/-- Settles O54: `BE` of the counter's four new bytes is their value (`be_beBytes`). -/
theorem inc32CountsTheLastFourBytes : Obligations.Inc32CountsTheLastFourBytes := by
  intro b hb
  have hkept : (slice b 0 12).length = 12 := by rw [slice_length]; omega
  refine ⟨?_, slice_append_left _ _ 12 hkept, ?_⟩
  · rw [inc32, List.length_append, hkept, beBytes_length]
  · rw [inc32, slice_append_right _ _ 12 16 hkept (by rw [beBytes_length]), be_beBytes]
    exact Nat.mod_mod _ _

/-! ### GHASH's inputs -/

/-- Settles O55: each part is padded to a multiple of 16 (`padLen_spec`), and the lengths fill one block. -/
theorem ghashInputsAreBlockAligned : Obligations.GhashInputsAreBlockAligned := by
  constructor
  · intro n
    have hn := (padLen_spec n.length).1
    simp only [j0Input, List.length_append, zeros_length, beBytes_length]
    omega
  · intro a c
    have ha := (padLen_spec a.length).1
    have hc := (padLen_spec c.length).1
    simp only [tagInput, List.length_append, zeros_length, beBytes_length]
    omega

/-! ### GCTR -/

/-- A sequence, chunk by chunk: what holds of every part of a block, and with one more block before those of which it holds. -/
theorem chunks_induction {motive : Bytes → Prop} (short : ∀ x : Bytes, x.length < 16 → motive x)
    (append : ∀ b x : Bytes, b.length = 16 → motive x → motive (b ++ x)) (x : Bytes) : motive x := by
  by_cases hx : x.length < 16
  · exact short x hx
  · have h := append (x.take 16) (x.drop 16) (by rw [List.length_take]; omega) (chunks_induction short append (x.drop 16))
    rwa [List.take_append_drop] at h
termination_by x.length
decreasing_by rw [List.length_drop]; omega

section
variable (e : Bytes → Bytes) (he : ∀ b : Bytes, (e b).length = 16) (icb : Bytes)

/-- Less than a block is one XOR (R122). -/
theorem gctr_short (x : Bytes) (hx : x.length < 16) : gctr e icb x = xorBytes x ((e icb).take x.length) := by
  by_cases hnil : x = []
  · rw [hnil]; rfl
  · rw [gctr, blocks_cons x hnil, List.take_of_length_le hx.le, List.drop_of_length_le hx.le, blocks_nil, gctrBlocks,
      gctrBlocks, List.append_nil]

include he

/-- A whole block is one XOR, and GCTR goes on with the next counter block (R122). -/
theorem gctr_append (b x : Bytes) (hb : b.length = 16) :
    gctr e icb (b ++ x) = xorBytes b (e icb) ++ gctr e (inc32 icb) x := by
  rw [gctr, blocks_append b x hb, gctrBlocks, List.take_of_length_le (by rw [he, hb]), gctr]

theorem gctr_length (x : Bytes) : (gctr e icb x).length = x.length := by
  induction x using chunks_induction generalizing icb with
  | short x hx => rw [gctr_short e icb x hx, xorBytes_length, List.length_take, he]; omega
  | append b x hb ih =>
    rw [gctr_append e he icb b x hb, List.length_append, xorBytes_length, he, hb, ih, List.length_append, hb, Nat.min_self]

/-- The key stream does not depend on the message, and XORed twice it cancels (R122). -/
theorem gctr_gctr (x : Bytes) : gctr e icb (gctr e icb x) = x := by
  induction x using chunks_induction generalizing icb with
  | short x hx =>
    have hlen := gctr_length e he icb x
    rw [gctr_short e icb _ (by omega), hlen, gctr_short e icb x hx, xorBytes_cancel _ _ (by rw [List.length_take, he]; omega)]
  | append b x hb ih =>
    have hblock : (xorBytes b (e icb)).length = 16 := by rw [xorBytes_length, hb, he, Nat.min_self]
    rw [gctr_append e he icb b x hb, gctr_append e he icb _ _ hblock, ih, xorBytes_cancel _ _ (by rw [hb, he])]

end

/-- Settles O56, by `gctr_length` and `gctr_gctr`. -/
theorem gctrIsSelfInverse : Obligations.GctrIsSelfInverse := fun e he icb x =>
  ⟨gctr_length e he icb x, gctr_gctr e he icb x⟩

/-! ### Tags -/

/-- A computed tag has the length that is asked for, up to a block (R124). -/
theorem computeTag_length (e : Bytes → Bytes) (he : ∀ b : Bytes, (e b).length = 16) (h j0 a c : Bytes) (t : Nat)
    (ht : t ≤ 16) : (computeTag e h j0 a c t).length = t := by
  rw [computeTag, List.length_take, gctr_length e he, ghash_length, Nat.min_eq_left ht]

/-- A tag of TAGLEN bytes that stands in TAG authenticates in both modes (R125). -/
theorem tagOk_of_supplied (cmp : Bool) (n : Nat) (t rest : Bytes) (ht : t.length = n) :
    tagOk cmp n t (t ++ rest) n = true := by
  cases cmp <;> simp [tagOk, ht, List.take_of_length_le]

/-- With TAGCMP = 0 a supplied tag of no bytes agrees with every tag (R130.2). -/
theorem tagOk_zero (n : Nat) (t tag : Bytes) : tagOk false n t tag 0 = true := by
  simp [tagOk]

/-- With TAGCMP = 1 another length than TAGLEN, and in both modes one above it, never authenticates (R125). -/
theorem tagOk_of_bad_length (cmp : Bool) (n k : Nat) (t tag : Bytes) (h : cmp = true ∧ k ≠ n ∨ n < k) :
    tagOk cmp n t tag k = false := by
  cases cmp with
  | true => simp [tagOk, show k ≠ n by omega]
  | false => simp [tagOk, show n < k by simpa using h]

end Sys2Proof.Machine

namespace Sys2Proof.Machine

/-! PROOFS. GCM_INIT, GCM_ENC and GCM_DEC (R126 to R128): results, failures and frames; the round trip (R129) and the supplied
tag's length (R130). -/

/-! ### GCM_INIT -/

/-- Settles O24: a success writes the schedule and the context, a failure drops the context and is then like every command's. -/
theorem gcmInitBuildsTheContext : Obligations.GcmInitBuildsTheContext := by
  refine ⟨rfl, fun s hs => ⟨fun nk hk h1 h2 h3 h4 h5 =>
    ⟨_, exec_gcmInit_ok s nk hk (by omega) (by omega) h5, ?_⟩, fun code hcode => ?_⟩⟩
  · have hw := Success.gcmInit (nk := nk) h1 h2 h3 h4 h5
    have hh := aesEncrypt_length (expandKey (s.key nk) nk) (rounds nk) (zeros 16)
    generalize aesEncrypt (expandKey (s.key nk) nk) (rounds nk) (zeros 16) = h at hw hh ⊢
    have hj := deriveJ0_length h s.nonce
    have hwf := s.memWf_setSched hs (expandKey (s.key nk) nk)
    have hhsub := State.hsub_setContext _ hwf h (deriveJ0 h s.nonce) hh
    have hj0 := State.j0_setContext _ hwf h _ hj
    have hkept := (keptOutside_setSched s hs nk hk).trans (keptOutside_setContext _ hwf h _ hh hj)
    obtain ⟨hsched, hks⟩ := (hw.sched hk hs).resolve_right fun hr => hr.1 rfl
    exact ⟨hw.completed 0x6 (by decide), hhsub, hj0, hsched, hks, rfl, hw.keptRegs.complete _ _ _, ⟨rfl, rfl⟩, rfl, hkept⟩
  · rcases hcode with ⟨hk, rfl⟩ | ⟨hk, ⟨ht, rfl⟩ | ⟨h1, h2, ⟨hn, rfl⟩ | ⟨h3, h4, ha, rfl⟩⟩⟩
    · exact ⟨_, exec_gcmInit_keyLen s hk, failed_failInit s _, rfl⟩
    · exact ⟨_, exec_gcmInit_tagLen s hk ht, failed_failInit s _, rfl⟩
    · exact ⟨_, exec_gcmInit_nonceLen s hk (by omega) hn, failed_failInit s _, rfl⟩
    · exact ⟨_, exec_gcmInit_aadLen s hk (by omega) (by omega) ha, failed_failInit s _, rfl⟩

/-! ### GCM_ENC -/

section
variable (s : State) (hs : s.memWf = true) (e : Bytes → Bytes) (c : Bytes)
include hs

/-- The ciphertext stands in OUT_BUF: the tag is written apart from it. -/
theorem State.output_gcmEncWrites (n : Nat) (hn : c.length = n) :
    (s.gcmEncWrites c (s.computeTag e c)).output n = c := by
  have hlen := s.paddedTag_length_le e c
  refine (State.arrSlice_setArr_apart _ (s.memWf_setArr hs .outBuf c) .tag .outBuf _ 0 _ (.inr ?_)).trans
    (s.arrSlice_setArr_same hs .outBuf c n hn.symm)
  simp only [Arr.base]
  omega

/-- TAG holds the tag and zeros after it (R127). -/
theorem State.tag_gcmEncWrites (he : ∀ b : Bytes, (e b).length = 16) (ht : s.ctrl.tagLen.toNat ≤ 16) :
    (s.gcmEncWrites c (s.computeTag e c)).tag = s.computeTag e c ++ zeros (16 - s.ctrl.tagLen.toNat) := by
  refine State.arrSlice_setArr_same _ (s.memWf_setArr hs .outBuf c) .tag _ 16 ?_
  rw [List.length_append, zeros_length, State.computeTag, computeTag_length e he _ _ _ _ _ ht]
  omega

/-- GCM_ENC writes as much of OUT_BUF as the ciphertext is long, and TAG. -/
theorem keptOutside_gcmEncWrites_length (n : Nat) (hn : c.length = n) :
    KeptOutside s (s.gcmEncWrites c (s.computeTag e c)) fun a => inArr .outBuf n a ∨ inArr .tag 16 a :=
  (keptOutside_setArr s hs .outBuf c n hn.le).trans
    (keptOutside_setArr _ (s.memWf_setArr hs .outBuf c) .tag _ 16 (s.paddedTag_length_le e c))

end

/-- What GCTR makes of the message has its length (R127, R128). -/
theorem State.gctr_message_length (s : State) (w : Bytes) (nr : Nat) (icb : Bytes) :
    (gctr (aesEncrypt w nr) icb s.message).length = s.msgLen.toNat := by
  rw [gctr_length _ (aesEncrypt_length w nr), State.message_length]

/-- Settles O25: a success is `State.gcmEncWrites` of the ciphertext and its tag, a failure is like every command's. -/
theorem gcmEncEncryptsAndTags : Obligations.GcmEncEncryptsAndTags := by
  refine ⟨rfl, fun s hs => ⟨fun nk hk ht hc hl => ⟨_, _, exec_gcmEnc_ok s nk hk hc hl, rfl, ?_⟩,
    fun hc => ⟨_, exec_gcmEnc_noCtx s hc, failed_failCommand s _ _, hc⟩,
    fun hc hl => ⟨_, exec_gcmEnc_len s hc hl, failed_failCommand s _ _, hc⟩⟩⟩
  have hw := Success.gcmEnc (nk := nk) hc hl
  have hlen := s.gctr_message_length s.sched (rounds nk) (inc32 s.j0)
  exact ⟨hw.completed 0x7 s.msgLen.isLt, s.output_gcmEncWrites hs _ _ _ hlen,
    s.tag_gcmEncWrites hs _ _ (aesEncrypt_length _ _) ht, rfl, rfl, hc, hw.keptRegs.complete _ _ _, ⟨rfl, rfl⟩,
    keptOutside_gcmEncWrites_length s hs _ _ _ hlen⟩

/-! ### GCM_DEC -/

/-- Settles O26: a success writes the decrypted message to OUT_BUF, a failure, ERR_AUTH too, is like every command's. -/
theorem gcmDecChecksTheTagThenDecrypts : Obligations.GcmDecChecksTheTagThenDecrypts := by
  refine ⟨rfl, fun s hs => ⟨fun nk hk hc hl => ⟨fun ht => ⟨_, exec_gcmDec_ok s nk hk hc hl ht, ?_⟩,
    fun ht => ⟨_, exec_gcmDec_auth s nk hk hc hl ht, failed_failCommand s _ _, hc⟩⟩,
    fun hc => ⟨_, exec_gcmDec_noCtx s hc, failed_failCommand s _ _, hc⟩,
    fun hc hl => ⟨_, exec_gcmDec_len s hc hl, failed_failCommand s _ _, hc⟩⟩⟩
  have hw := Success.gcmDec (nk := nk) hc hl ht
  have hlen := s.gctr_message_length s.sched (rounds nk) (inc32 s.j0)
  exact ⟨hw.completed 0x8 s.msgLen.isLt, rfl, s.arrSlice_setArr_same hs .outBuf _ _ hlen.symm, rfl, hc,
    hw.keptRegs.complete _ _ _, ⟨rfl, rfl⟩, rfl, keptOutside_setArr s hs .outBuf _ _ hlen.le⟩

/-- Settles O60: the length alone decides the check (`tagOk_zero`, `tagOk_of_bad_length`). -/
theorem suppliedTagLengthDecides : Obligations.SuppliedTagLengthDecides := by
  intro s h hc hl
  obtain ⟨-, -, -, -, -, -, nk, hk, -⟩ := h.ctx hc
  constructor
  · intro hcmp hlen
    refine ⟨_, exec_gcmDec_ok s nk hk hc hl ?_, rfl, rfl⟩
    rw [hcmp, hlen]
    exact tagOk_zero _ _ _
  · intro hbad
    refine ⟨_, exec_gcmDec_auth s nk hk hc hl (tagOk_of_bad_length _ _ _ _ _ ?_), rfl, rfl, rfl⟩
    exact hbad.imp_left fun ⟨hcmp, hne⟩ => ⟨hcmp, mt BitVec.eq_of_toNat_eq hne⟩

/-! ### The round trip -/

/-- GCM_ENC keeps every array between TAG and OUT_BUF. -/
theorem KeptOutside.arrSlice_above_tag {s t : State} {n : Nat}
    (h : KeptOutside s t fun a => inArr .outBuf n a ∨ inArr .tag 16 a) (x : Arr) (m : Nat)
    (hlow : Arr.base .tag + 16 ≤ x.base) (hhigh : x.base + m ≤ Arr.base .outBuf) : t.arrSlice x 0 m = s.arrSlice x 0 m :=
  h.arrSlice x m fun a ha => by simp only [inArr] at ha ⊢; omega

/-- GCM_ENC succeeds only in a context and on a message that fits IN_BUF (R127). -/
theorem gcmEnc_checks_of_ok {s t : State} (h : exec .gcmEnc s = .next t) (herr : t.status.errCode = .ok) :
    s.status.ctxValid = true ∧ s.msgLen.toNat ≤ s.cfg.maxMsg := by
  cases exec_ends _ _ _ h with
  | failed _ _ _ _ hcode => exact absurd herr hcode
  | ok _ _ _ _ _ hw => cases hw with | gcmEnc hc hl => exact ⟨hc, hl⟩

/-- GCM_ENC keeps the context and the AAD: AAD_BUF, too, ends below OUT_BUF (R8). -/
theorem gcmEnc_keeps_context {s t : State} {n : Nat} (hc : s.cfg.wf = true) (hal : s.aadLen.toNat ≤ s.cfg.maxAad)
    (hregs : KeptRegs s t) (hkept : KeptOutside s t fun a => inArr .outBuf n a ∨ inArr .tag 16 a) :
    t.sched = s.sched ∧ t.hsub = s.hsub ∧ t.j0 = s.j0 ∧ t.aad = s.aad := by
  refine ⟨hkept.arrSlice_above_tag .sched 240 (by decide) (by decide),
    hkept.arrSlice_above_tag .hsub 16 (by decide) (by decide), hkept.arrSlice_above_tag .j0 16 (by decide) (by decide), ?_⟩
  rw [State.aad, State.aad, hregs.aadLen]
  refine hkept.arrSlice_above_tag .aadBuf _ (by decide) ?_
  simp only [Config.wf, Bool.and_eq_true, decide_eq_true_eq] at hc
  simp only [Arr.base]
  omega

/-- What a successful GCM_ENC leaves for GCM_DEC, said in the context that it leaves: the ciphertext in OUT_BUF, and its tag
in TAG with the length in TAG_IN_LEN (R127). -/
theorem gcmEnc_success {s t : State} (h : Inv s) (hx : exec .gcmEnc s = .next t) (herr : t.status.errCode = .ok) :
    ∃ nk, keyBytes s.ctrl.keyLen = some nk ∧ s.msgLen.toNat ≤ s.cfg.maxMsg ∧ s.ctrl.tagLen.toNat ≤ 16 ∧ KeptRegs s t ∧
      t.tagInLen = s.ctrl.tagLen ∧
      t.output s.msgLen.toNat = gctr (aesEncrypt t.sched (rounds nk)) (inc32 t.j0) s.message ∧
      t.tag = computeTag (aesEncrypt t.sched (rounds nk)) t.hsub t.j0 t.aad (t.output s.msgLen.toNat) s.ctrl.tagLen.toNat ++
        zeros (16 - s.ctrl.tagLen.toNat) := by
  obtain ⟨hc, hl⟩ := gcmEnc_checks_of_ok hx herr
  obtain ⟨-, -, ht, -, -, hal, nk, hk, -⟩ := h.ctx hc
  obtain ⟨t', c, hx', hcipher, -, hout, htag, htlen, -, -, hregs, -, hkept⟩ :=
    (gcmEncEncryptsAndTags.2 s h.memOk).1 nk hk ht hc hl
  cases hx.symm.trans hx'
  obtain ⟨hsched, hhsub, hj0, haad⟩ := gcmEnc_keeps_context h.cfgOk hal hregs hkept
  rw [hsched, hhsub, hj0, haad, hout]
  exact ⟨nk, hk, hl, ht, hregs, htlen, hcipher, htag⟩

/-- Settles O59: GCM_DEC finds in TAG the tag it computes (`tagOk_of_supplied`), and GCTR undoes itself (`gctr_gctr`). -/
theorem gcmRoundTripOnTheMachine : Obligations.GcmRoundTripOnTheMachine := by
  intro s t u h hx herr _ _ hu heq huc hsched hhsub hj0 haad htag hin
  obtain ⟨nk, hk, hl, ht, hregs, htlen, hcipher, httag⟩ := gcmEnc_success h hx herr
  have hctrl : u.ctrl = s.ctrl := (congrArg State.ctrl heq).trans hregs.ctrl
  have hcfg : u.cfg = s.cfg := (congrArg State.cfg heq).trans hregs.cfg
  have hml : u.msgLen = s.msgLen := (congrArg State.msgLen heq).trans hregs.msgLen
  have hsupplied : u.tagInLen = s.ctrl.tagLen := (congrArg State.tagInLen heq).trans htlen
  have hmsg : u.message = t.output s.msgLen.toNat := by rw [State.message, hml, hin]
  have htagOk : tagOk u.ctrl.tagCmp u.ctrl.tagLen.toNat
      (computeTag (aesEncrypt u.sched (rounds nk)) u.hsub u.j0 u.aad u.message u.ctrl.tagLen.toNat)
      u.tag u.tagInLen.toNat = true := by
    rw [hctrl, hsched, hhsub, hj0, haad, hmsg, htag, httag, hsupplied]
    exact tagOk_of_supplied _ _ _ _ (computeTag_length _ (aesEncrypt_length _ _) _ _ _ _ _ ht)
  obtain ⟨v, hv, hcompleted, hauth, hres, -⟩ :=
    ((gcmDecChecksTheTagThenDecrypts.2 u hu).1 nk (hctrl ▸ hk) huc (by rw [hml, hcfg]; exact hl)).1 htagOk
  rw [hml] at hcompleted hres
  refine ⟨v, hv, hcompleted, hauth, ?_⟩
  rw [hres, hsched, hj0, hmsg, hcipher, gctr_gctr _ (aesEncrypt_length _ _)]

end Sys2Proof.Machine

namespace Sys2Proof.Machine

/-! PROOFS. The code that each command reports (R131, R132). -/

/-- Command `i` completes from `s` and reports the code of its check order. -/
def Reports (s : State) (i : Instr) : Prop :=
  ∃ t, exec i s = .next t ∧ t.status.busy = false ∧ t.status.lastOp = opcode i ∧ t.status.errCode = expectedCode s i

/-- The completion step, of a success or a failure, reports the code that it is given (R70). -/
theorem reports_of_complete {s u : State} {i : Instr} {code : ErrCode} {n : Nat}
    (h : exec i s = .next (u.complete (opcode i) code n)) (hc : expectedCode s i = code) : Reports s i :=
  ⟨_, h, rfl, rfl, hc.symm⟩

/-- A context has a key length (R79). -/
theorem Inv.keyBytes_of_ctxValid {s : State} (h : Inv s) (hc : s.status.ctxValid = true) :
    ∃ nk, keyBytes s.ctrl.keyLen = some nk := by
  obtain ⟨-, -, -, -, -, -, nk, hk, -⟩ := h.ctx hc
  exact ⟨nk, hk⟩

section
variable (s : State)

/-- A command that checks KEYLEN alone: KEYEXP and the block commands (R96, R110, R111). -/
theorem reports_of_keyLen_check (i : Instr) (hcode : expectedCode s i = if s.ctrl.keyLen = 0b11 then .keyLen else .ok)
    (hbad : s.ctrl.keyLen = 0b11 → exec i s = .next (s.failCommand (opcode i) .keyLen))
    (hok : ∀ nk, keyBytes s.ctrl.keyLen = some nk →
      ∃ (u : State) (n : Nat), exec i s = .next (u.complete (opcode i) .ok n)) :
    Reports s i := by
  rcases keyLen_cases s.ctrl.keyLen with hk | ⟨nk, hk⟩
  · exact reports_of_complete (hbad hk) (by rw [hcode, if_pos hk])
  · obtain ⟨u, n, hx⟩ := hok nk hk
    exact reports_of_complete hx (by rw [hcode, if_neg (keyLen_ne _ nk hk)])

/-- CBC_ENC reports its code or waits for its draw (R116, R156). -/
theorem cbcEnc_reports_or_waits :
    Reports s .cbcEnc ∨
      (s.ctrl.ivGen = true ∧ s.rngPort = none ∧ exec .cbcEnc s = .next { s with rngWait := true }) := by
  rcases keyLen_cases s.ctrl.keyLen with hk | ⟨nk, hk⟩
  · exact .inl (reports_of_complete (exec_cbcEnc_keyLen s hk) (if_pos hk))
  have hk' := keyLen_ne _ nk hk
  rcases Nat.lt_or_ge s.cfg.maxMsg s.msgLen.toNat with hl | hl
  · exact .inl (reports_of_complete (exec_cbcEnc_len s hk' hl) ((if_neg hk').trans (if_pos hl)))
  have hcode : expectedCode s .cbcEnc = .ok := (if_neg hk').trans (if_neg hl.not_gt)
  cases hg : s.ctrl.ivGen with
  | false => exact .inl (reports_of_complete (exec_cbcEnc_ok s nk hk hl hg) hcode)
  | true =>
    rcases Option.eq_none_or_eq_some s.rngPort with hp | ⟨draw, hp⟩
    · exact .inr ⟨rfl, hp, exec_cbcEnc_wait s hk' hl hg hp⟩
    · exact .inl (reports_of_complete (exec_cbcEnc_draw s nk draw hk hl hg hp) hcode)

/-- CBC_DEC checks KEYLEN, MSG_LEN and the padding (R117). -/
theorem cbcDec_reports : Reports s .cbcDec := by
  rcases keyLen_cases s.ctrl.keyLen with hk | ⟨nk, hk⟩
  · exact reports_of_complete (exec_cbcDec_keyLen s hk) (by simp [expectedCode, (keyBytes_eq_none _).2 hk])
  by_cases hl : s.msgLen.toNat = 0 ∨ s.msgLen.toNat % 16 ≠ 0 ∨ s.msgLen.toNat > s.cfg.maxMsg
  · exact reports_of_complete (exec_cbcDec_len s (keyLen_ne _ nk hk) hl)
      (by simp only [expectedCode, hk]; exact if_pos hl)
  cases hm : unpad (cbcDecrypt (aesDecrypt (expandKey (s.key nk) nk) (rounds nk)) s.iv s.message) with
  | none =>
    exact reports_of_complete (exec_cbcDec_pad s nk hk hl hm)
      (by simp only [expectedCode, hk, hm, if_true]; exact if_neg hl)
  | some m =>
    exact reports_of_complete (exec_cbcDec_ok s nk m hk hl hm)
      (by simp only [expectedCode, hk, hm, reduceCtorEq, if_false]; exact if_neg hl)

/-- GCM_INIT checks KEYLEN, TAGLEN, NONCE_LEN and AAD_LEN (R126). -/
theorem gcmInit_reports : Reports s .gcmInit := by
  rcases keyLen_cases s.ctrl.keyLen with hk | ⟨nk, hk⟩
  · exact reports_of_complete (exec_gcmInit_keyLen s hk) (if_pos hk)
  have hk' := keyLen_ne _ nk hk
  by_cases ht : s.ctrl.tagLen.toNat = 0 ∨ 16 < s.ctrl.tagLen.toNat
  · exact reports_of_complete (exec_gcmInit_tagLen s hk' (by omega)) ((if_neg hk').trans (if_pos ht))
  by_cases hn : s.nonceLen.toNat = 0 ∨ s.cfg.maxNonce < s.nonceLen.toNat
  · exact reports_of_complete (exec_gcmInit_nonceLen s hk' (by omega) hn)
      (by rw [expectedCode, if_neg hk', if_neg ht, if_pos hn])
  by_cases ha : s.cfg.maxAad < s.aadLen.toNat
  · exact reports_of_complete (exec_gcmInit_aadLen s hk' (by omega) hn ha)
      (by rw [expectedCode, if_neg hk', if_neg ht, if_neg hn, if_pos ha])
  · exact reports_of_complete (exec_gcmInit_ok s nk hk (by omega) hn (by omega))
      (by rw [expectedCode, if_neg hk', if_neg ht, if_neg hn, if_neg ha])

variable (h : Inv s)
include h

/-- GCM_ENC checks the context and MSG_LEN (R127). -/
theorem gcmEnc_reports : Reports s .gcmEnc := by
  cases hc : s.status.ctxValid with
  | false => exact reports_of_complete (exec_gcmEnc_noCtx s hc) (if_pos hc)
  | true =>
    obtain ⟨nk, hk⟩ := h.keyBytes_of_ctxValid hc
    rcases Nat.lt_or_ge s.cfg.maxMsg s.msgLen.toNat with hl | hl
    · exact reports_of_complete (exec_gcmEnc_len s hc hl) (by simp [expectedCode, hc, hl])
    · exact reports_of_complete (exec_gcmEnc_ok s nk hk hc hl) (by simp [expectedCode, hc, hl])

/-- GCM_DEC checks the context, MSG_LEN and the tag (R128). -/
theorem gcmDec_reports : Reports s .gcmDec := by
  cases hc : s.status.ctxValid with
  | false =>
    refine reports_of_complete (exec_gcmDec_noCtx s hc) ?_
    rw [expectedCode]
    split
    · rfl
    · exact if_pos hc
  | true =>
    obtain ⟨nk, hk⟩ := h.keyBytes_of_ctxValid hc
    rcases Nat.lt_or_ge s.cfg.maxMsg s.msgLen.toNat with hl | hl
    · exact reports_of_complete (exec_gcmDec_len s hc hl) (by simp [expectedCode, hk, hc, hl])
    cases ht : tagOk s.ctrl.tagCmp s.ctrl.tagLen.toNat (s.computeTag (aesEncrypt s.sched (rounds nk)) s.message) s.tag
      s.tagInLen.toNat with
    | false => exact reports_of_complete (exec_gcmDec_auth s nk hk hc hl ht) (by simp [expectedCode, hk, hc, hl, ht])
    | true => exact reports_of_complete (exec_gcmDec_ok s nk hk hc hl ht) (by simp [expectedCode, hk, hc, hl, ht])

end

/-- Settles O27, command by command: each way a command can end is a completion with the code of the check that fails
first (`reports_of_complete`), but for CBC_ENC's wait. -/
theorem commandsReportTheFirstFailingCheck : Obligations.CommandsReportTheFirstFailingCheck := by
  intro s i h _ hi
  cases i with
  | nop => exact absurd rfl hi
  | keyexp =>
    exact .inl (reports_of_keyLen_check s .keyexp rfl (exec_keyexp_keyLen s) fun nk hk => ⟨_, _, exec_keyexp_ok s nk hk⟩)
  | encBlock =>
    exact .inl (reports_of_keyLen_check s .encBlock rfl (exec_encBlock_keyLen s)
      fun nk hk => ⟨_, _, exec_encBlock_ok s nk hk⟩)
  | decBlock =>
    exact .inl (reports_of_keyLen_check s .decBlock rfl (exec_decBlock_keyLen s)
      fun nk hk => ⟨_, _, exec_decBlock_ok s nk hk⟩)
  | cbcEnc => exact (cbcEnc_reports_or_waits s).imp_right fun hw => ⟨rfl, hw⟩
  | cbcDec => exact .inl (cbcDec_reports s)
  | gcmInit => exact .inl (gcmInit_reports s)
  | gcmEnc => exact .inl (gcmEnc_reports s h)
  | gcmDec => exact .inl (gcmDec_reports s h)
  | reserved9 => exact .inl (reports_of_complete (exec_reserved9 s) rfl)
  | reservedAB op => exact .inl (reports_of_complete (exec_reservedAB s op) rfl)
  | reservedCF op => exact .inl (reports_of_complete (exec_reservedCF s op) rfl)

end Sys2Proof.Machine

namespace Sys2Proof.Machine

/-! PROOFS. The interrupt bits: the IRQ output (R135), and what clears a bit (R136). -/

/-! ### IRQ -/

/-- The words of two sets of interrupt bits meet in the bits that both have (R135). -/
theorem IntBits.toWord_and (b c : IntBits) : b.toWord &&& c.toWord =
    IntBits.toWord { done := b.done && c.done, err := b.err && c.err, busyErr := b.busyErr && c.busyErr } := by
  have hbits : ∀ d e f d' e' f' : Bool,
      IntBits.toWord { done := d, err := e, busyErr := f } &&& IntBits.toWord { done := d', err := e', busyErr := f' } =
        IntBits.toWord { done := d && d', err := e && e', busyErr := f && f' } := by decide
  exact hbits b.done b.err b.busyErr _ _ _

/-- The word is 0 exactly if no bit is set. -/
theorem IntBits.toWord_ne_zero (b : IntBits) : b.toWord ≠ 0 ↔ (b.done || b.err || b.busyErr) = true := by
  have hbits : ∀ d e f : Bool, IntBits.toWord { done := d, err := e, busyErr := f } ≠ 0 ↔ (d || e || f) = true := by
    decide
  exact hbits b.done b.err b.busyErr

/-- Settles O43: IRQ is the OR of the bits in which the two words meet. -/
theorem irqIsTheMaskedOr : Obligations.IrqIsTheMaskedOr := by
  refine ⟨fun s => ?_, rfl⟩
  rw [regValue, regValue, IntBits.toWord_and, IntBits.toWord_ne_zero]
  rfl

/-! ### What clears an interrupt bit -/

/-- Every interrupt bit set in `b` is set in `c`. -/
structure IntBits.Kept (b c : IntBits) : Prop where
  done : b.done = true → c.done = true
  err : b.err = true → c.err = true
  busyErr : b.busyErr = true → c.busyErr = true

theorem IntBits.Kept.refl (b : IntBits) : b.Kept b := ⟨id, id, id⟩

/-- A dropped write sets BUSYERR and clears nothing (R76). -/
theorem State.intStatus_kept_noteBusyErr (s : State) : s.intStatus.Kept s.noteBusyErr.intStatus :=
  ⟨id, id, fun _ => rfl⟩

/-- A completion sets DONE and perhaps ERR, and clears nothing (R70, R136). -/
theorem State.intStatus_kept_complete (s : State) (op : BitVec 4) (code : ErrCode) (n : Nat) :
    s.intStatus.Kept (s.complete op code n).intStatus :=
  ⟨fun _ => rfl, fun h => by simp [h], id⟩

/-- The result writes of a command reach no interrupt bit. -/
theorem Success.intStatus {nk : Nat} {s u : State} {i : Instr} {n : Nat} (h : Success nk s i u n) :
    u.intStatus = s.intStatus := by
  cases h <;> rfl

/-- A command clears no interrupt bit (R136). -/
theorem Ends.intStatus_kept {s t : State} {i : Instr} (h : Ends s i t) : s.intStatus.Kept t.intStatus := by
  cases h with
  | nop | waits => exact .refl _
  | failed => exact s.intStatus_kept_complete _ _ _
  | failedInit => exact s.dropContext.intStatus_kept_complete _ _ _
  | ok _ _ u _ _ hu => rw [← hu.intStatus]; exact u.intStatus_kept_complete _ _ _

/-- A host write clears interrupt bits only as a 4-byte write to INT_STATUS, and then those written as 1 (R25, R136). -/
theorem WriteEnds.intStatus {s t : State} {n : Size} {a : BitVec 16} {v : Word} (h : WriteEnds s n a v t) :
    s.intStatus.Kept t.intStatus ∨
      (n = .word ∧ locate s.cfg n a.toNat = .reg .intStatus ∧ t.intStatus = s.intStatus.clear v) := by
  cases h with
  | error | nop | issue => exact .inl (.refl _)
  | droppedReg | droppedArr => exact .inl s.intStatus_kept_noteBusyErr
  | arr x =>
    have hx : (s.writeArr n a.toNat v x).intStatus = s.intStatus := State.invalidateArr_intStatus _ x
    exact .inl (hx ▸ .refl (s.writeArr n a.toNat v x).intStatus)
  | reg r hl =>
    by_cases hr : r = .intStatus
    · subst hr
      exact .inr ⟨((locate_eq_reg _ _ _ _).1 hl).1, hl, rfl⟩
    · exact .inl (s.writeReg_intStatus_of_ne v r hr ▸ .refl (s.writeReg v r).intStatus)

/-- A step keeps the interrupt bits, clears those that its own host write has as 1, or is a reset (R136). -/
theorem StepEnds.intStatus {s t : State} (h : StepEnds s t) :
    s.intStatus.Kept t.intStatus ∨
      (∃ e es a v, s.events = e :: es ∧ hostWriteOf s.cfg e = some (.word, a, v) ∧
        locate s.cfg .word a.toNat = .reg .intStatus ∧ t.intStatus = s.intStatus.clear v) ∨
      ∃ es, s.events = .reset :: es := by
  cases h with
  | listen | rng => exact .inl (.refl _)
  | complete _ _ _ _ _ _ hx => exact .inl (exec_ends _ _ _ hx).intStatus_kept
  | reset es he => exact .inr (.inr ⟨es, he⟩)
  | write e n a v es _ he hv hw =>
    refine hw.intStatus.imp_right ?_
    rintro ⟨rfl, hl, ht⟩
    exact .inl ⟨e, es, a, v, he, hv, hl, ht⟩

/-- Settles O44: a bit that is not kept was written as 1, or the event is a reset (`StepEnds.intStatus`). -/
theorem onlyTheHostClearsInterruptBits : Obligations.OnlyTheHostClearsInterruptBits := by
  intro s t h
  rcases (step_ends s t h).intStatus with hkept | ⟨e, es, a, v, he, hv, hl, ht⟩ | hreset
  · exact ⟨fun hs ht => absurd ((hkept.done hs).symm.trans ht) nofun,
      fun hs ht => absurd ((hkept.err hs).symm.trans ht) nofun,
      fun hs ht => absurd ((hkept.busyErr hs).symm.trans ht) nofun⟩
  · have hclears : ∀ i, v.getLsbD i = true → HostClears s i := fun i hi => ⟨e, es, a, v, he, hv, hl, hi⟩
    rw [ht]
    refine ⟨fun hs hc => .inl (hclears 0 ?_), fun hs hc => .inl (hclears 1 ?_), fun hs hc => .inl (hclears 2 ?_)⟩ <;>
      simpa [IntBits.clear, hs] using hc
  · exact ⟨fun _ _ => .inr hreset, fun _ _ => .inr hreset, fun _ _ => .inr hreset⟩

end Sys2Proof.Machine

namespace Sys2Proof.Machine

/-! PROOFS. Reset (R146 to R148): the reset state's memory, registers and invariants, and the reset event. -/

/-! ### What an unlisted offset reads as -/

theorem Memory.unlisted_of_lt (gen a : Nat) (h : a < 0x300) : Memory.unlisted gen a = 0x00 := if_pos h

theorem Memory.unlisted_of_ge (gen a : Nat) (h : 0x300 ≤ a) : Memory.unlisted gen a = Config.resetDraw gen a :=
  if_neg (by omega)

/-- With no listed offset, as after reset, every byte is the unlisted one (R43, R147). -/
theorem State.byteAt_of_mem_nil (s : State) (h : s.mem = []) (a : Nat) : s.byteAt a = Memory.unlisted s.resets a := by
  rw [State.byteAt, h, Memory.read]

/-- The six arrays that R147 zeroes lie below NONCE_BUF (R30). -/
theorem Arr.end_le_nonceBuf (cfg : Config) :
    ∀ x ∈ [Arr.key, Arr.iv, Arr.tag, Arr.hsub, Arr.j0, Arr.sched], x.base + x.size cfg ≤ 0x300 := by
  simp [Arr.base, Arr.size]

/-- The four buffers, whose contents after reset R43 leaves free, start at NONCE_BUF (R30). -/
theorem Arr.nonceBuf_le_base : ∀ x ∈ [Arr.nonceBuf, Arr.aadBuf, Arr.inBuf, Arr.outBuf], 0x300 ≤ x.base := by
  decide

/-! ### The reset state -/

/-- The reset state is R147's, whatever stands on the RNG port and in the events to come. -/
theorem resetState_reset (cfg : Config) (p : Option (Vector Byte 16)) (gen : Nat) (es : List Event) :
    ResetState cfg gen { State.reset with cfg := cfg, rngPort := p, resets := gen, events := es } where
  id := rfl
  version := rfl
  param0 := rfl
  param1 := rfl
  ctrl := show State.reset.ctrl.toWord = 0x00001000 by decide
  ctrlFields := rfl
  status := show State.reset.status.toWord = 0 by decide
  statusFields := rfl
  intStatus := show State.reset.intStatus.toWord = 0 by decide
  intEnable := show State.reset.intEnable.toWord = 0 by decide
  lengths := ⟨rfl, rfl, rfl, rfl, rfl⟩
  zeroed := fun x hx i hi => by
    have hend := Arr.end_le_nonceBuf cfg x hx
    rw [State.byteAt_of_mem_nil _ rfl, Memory.unlisted_of_lt _ _ (by omega)]
  drawn := fun x hx i _ => by
    have hbase := Arr.nonceBuf_le_base x hx
    rw [State.byteAt_of_mem_nil _ rfl, Memory.unlisted_of_ge _ _ (by omega)]
  hidden := ⟨rfl, rfl⟩
  irq := rfl

/-- Settles O4: the values are `resetState_reset`, and with both validity flags 0 R79 claims nothing. -/
theorem resetLeavesTheResetState : Obligations.ResetLeavesTheResetState :=
  fun cfg gen => ⟨resetState_reset cfg none gen [], nofun, nofun⟩

/-- Settles O5: a reset event answers `State.resetNow`, whatever the state was (R146), and that is a reset state. -/
theorem resetEventAbandonsTheCommand : Obligations.ResetEventAbandonsTheCommand :=
  fun s es he => ⟨_, step_of_events s .reset es he, resetState_reset s.cfg s.rngPort (s.resets + 1) es, rfl, rfl, rfl⟩

/-- Settles O6: a case of `inv_reset`. -/
theorem resetMeetsTheInvariant : Obligations.ResetMeetsTheInvariant :=
  fun cfg hc => inv_reset cfg hc none 0 []

end Sys2Proof.Machine

namespace Sys2Proof.Machine

/-! PROOFS. The RNG hazard (R41, R156): a CBC_ENC waits for its draw and completes after the delivery. -/

/-- A draw that comes to an empty port stands there, and the wait for it ends (R14, R41). -/
theorem step_rng_emptyPort (s : State) (draw : Vector Byte 16) (es : List Event) (he : s.events = .rng draw :: es)
    (hp : s.rngPort = none) :
    step s = .next { s with events := es, rngPort := some draw, rngWait := false } := by
  rw [step_of_events s _ es he, runEvent, State.rngDeliver, hp]

section
variable (s : State) (es : List Event) (he : s.events = .engine :: es) (hb : s.status.busy = true) (hop : s.pendingOp = 0x4)
include he hb hop

/-- The engine's turn runs a pending CBC_ENC (R70). -/
theorem step_pending_cbcEnc : step s = exec .cbcEnc { s with events := es } :=
  (engineStepRunsThePendingCommand s es (.inl he)).1 hb .cbcEnc rfl hop.symm

variable (hk : s.ctrl.keyLen ≠ 0b11) (hl : s.msgLen.toNat ≤ s.cfg.maxMsg) (hg : s.ctrl.ivGen = true)
include hk hl hg

/-- While the port is empty the engine's turn only shows the wait (R41, R156). -/
theorem step_pending_cbcEnc_wait (hp : s.rngPort = none) : step s = .next { s with events := es, rngWait := true } :=
  (step_pending_cbcEnc s es he hb hop).trans (exec_cbcEnc_wait { s with events := es } hk hl hg hp)

/-- With a draw on the port the engine's turn completes the command with success (R70, R116). -/
theorem step_pending_cbcEnc_draw (draw : Vector Byte 16) (hp : s.rngPort = some draw) :
    ∃ t, step s = .next t ∧ t.status.busy = false ∧ t.status.errCode = .ok ∧ t.status.lastOp = 0x4 := by
  obtain ⟨nk, hnk⟩ := (keyLen_cases s.ctrl.keyLen).resolve_left hk
  have hexec := exec_cbcEnc_draw { s with events := es } nk draw hnk hl hg hp
  exact ⟨_, (step_pending_cbcEnc s es he hb hop).trans hexec, rfl, rfl, rfl⟩

end

/-- Settles O22: the engine's first turn finds no draw (`step_pending_cbcEnc_wait`), the delivery changes the port and
RNG_WAIT alone (`step_rng_emptyPort`), and the next turn finds the draw (`step_pending_cbcEnc_draw`). -/
theorem cbcEncWaitsForTheDraw : Obligations.CbcEncWaitsForTheDraw := by
  intro s hk hl hg hp
  refine ⟨exec_cbcEnc_wait s hk hl hg hp, fun hb hop draw es he => ?_⟩
  have hwaits := step_pending_cbcEnc_wait s _ he hb hop hk hl hg hp
  have hdelivers := step_rng_emptyPort { s with events := .rng draw :: .engine :: es, rngWait := true } draw _ rfl hp
  obtain ⟨v, hcompletes, hidle, hok, hlast⟩ := step_pending_cbcEnc_draw
    { s with events := .engine :: es, rngPort := some draw, rngWait := false } es rfl hb hop hk hl hg draw rfl
  exact ⟨_, _, v, hwaits, rfl, rfl, rfl, hdelivers, rfl, rfl, rfl, hcompletes, hidle, hok, hlast⟩

end Sys2Proof.Machine
